-- ==== Sys2Proof/Word.lean ====
section
/-! DEFINITION. The word types of C8DEC (00_scope.md R5): every quantity of the block is unsigned
(46_sequencer.md R120), and an operand has exactly the width of its field (30_encoding.md R32). -/

namespace Sys2Proof

/-- A byte of the input buffer (R5: "two 8-bit values"). -/
abbrev Byte := BitVec 8

/-- An instruction word, 16 bits, raw value in [0, 65535] (R5, R28). -/
abbrev Word := BitVec 16

/-- Four bits of a word: the family, and the low-nibble selector of family 8 (R30). -/
abbrev Nibble := BitVec 4

/-- A register index, 0 to 15 (R5, R30: the fields x and y). It names a register of the decoded program's
virtual machine; the block has no such register (10_state.md R10). -/
abbrev RegIndex := BitVec 4

/-- The small count n, 0 to 15 (R5, R30). -/
abbrev Count := BitVec 4

/-- An address, 0 to 4095 (R5, R30: the field addr). An uninterpreted number for this block (20_memory.md R24). -/
abbrev Addr := BitVec 12

end Sys2Proof
end

