-- ==== Sys2Proof/Config.lean ====
section
/-! DEFINITION. What an implementation of C8DEC fixes (00_scope.md R6): the selector values and the family pairing
that the spec holds as named parameters, and the parameters of rendering, which stands outside the block. These are
constants of a configuration, not registers (10_state.md R15). The values the machine of this model runs with are
`defaultParams`, in Decode.lean. -/

namespace Sys2Proof

/-- The twelve instructions that the single-shape families select, one family each (30_encoding.md R36). -/
inductive SingleShape where
  | jumpToAddress
  | callAddress
  | skipEqualByte
  | skipNotEqualByte
  | skipEqualRegister
  | loadRegisterByte
  | addByte
  | skipNotEqualRegister
  | loadIndex
  | jumpOffset
  | randomMask
  | drawSprite
  deriving DecidableEq, Repr

/-- The open parameters of the dispatch table: the 17 selectors of R41 that the source names without a number, and
FAMILY_SHAPE (R6, R36) as one field for each of the twelve single-shape families. -/
structure Params where
  /-- FAMILY_SHAPE: what family 0x1 selects (an anchor of the source: jump-to-address). -/
  shape1 : SingleShape
  shape2 : SingleShape
  shape3 : SingleShape
  shape4 : SingleShape
  shape5 : SingleShape
  /-- FAMILY_SHAPE: what family 0x6 selects (an anchor of the source: load-register-byte). -/
  shape6 : SingleShape
  shape7 : SingleShape
  shape9 : SingleShape
  shapeA : SingleShape
  shapeB : SingleShape
  shapeC : SingleShape
  shapeD : SingleShape
  /-- SEL8_OR, and so on: low-nibble selectors of family 8 (copy-register is 0x0 and subtract-register 0x5 by the
  source, so neither is a parameter). -/
  sel8Or : Nibble
  sel8And : Nibble
  sel8Xor : Nibble
  sel8Add : Nibble
  sel8Shr : Nibble
  sel8Subn : Nibble
  sel8Shl : Nibble
  /-- SELE_SKP, SELE_SKNP: low-byte selectors of family E. -/
  selESkp : Byte
  selESknp : Byte
  /-- SELF_RDT, and so on: low-byte selectors of family F (load-font-address is 0x29 by the source). -/
  selFRdt : Byte
  selFWdt : Byte
  selFWst : Byte
  selFKey : Byte
  selFAddi : Byte
  selFBcd : Byte
  selFStore : Byte
  selFLoad : Byte
  deriving DecidableEq, Repr

/-- The nine family-8 selectors, in the order of R38's list. -/
def Params.selectors8 (p : Params) : List Nibble :=
  [0x0, p.sel8Or, p.sel8And, p.sel8Xor, p.sel8Add, 0x5, p.sel8Shr, p.sel8Subn, p.sel8Shl]

/-- The two family-E selectors, in the order of R39's list. -/
def Params.selectorsE (p : Params) : List Byte :=
  [p.selESkp, p.selESknp]

/-- The nine family-F selectors, in the order of R40's list. -/
def Params.selectorsF (p : Params) : List Byte :=
  [p.selFRdt, p.selFWdt, p.selFWst, p.selFKey, p.selFAddi, 0x29, p.selFBcd, p.selFStore, p.selFLoad]

/-- What each single-shape family selects, in the order of R36's family list. -/
def Params.shapes (p : Params) : List SingleShape :=
  [p.shape1, p.shape2, p.shape3, p.shape4, p.shape5, p.shape6, p.shape7, p.shape9, p.shapeA, p.shapeB, p.shapeC,
    p.shapeD]

/-- What the source fixes, and so what any choice of the parameters must meet: R41 items 1 to 3 for the selectors;
for the pairing, that each of the twelve families selects one instruction of its own and that families 1 and 6 are
the source's (R36). -/
abbrev Params.Admissible (p : Params) : Prop :=
  (p.selectors8.Nodup ∧ 0xF#4 ∉ p.selectors8) ∧
  p.selectorsE.Nodup ∧
  (p.selectorsF.Nodup ∧ 0xFF#8 ∉ p.selectorsF) ∧
  (p.shapes.Nodup ∧ p.shape1 = .jumpToAddress ∧ p.shape6 = .loadRegisterByte)

/-- A piece of rendered text, character by character. -/
abbrev Text := List Char

/-- OPAQUE_WORD_FORMAT (30_encoding.md R50): "a hexadecimal word", whose number of digits, prefix and case are not in the
source. DESIGN CHOICE (log entry 14): the number of digits is given as the least one, and a shorter numeral is filled up
with zeros on the left (1: the shortest numeral, 4: always four digits); all letters of a numeral are in one case; no other
filling, and nothing after the digits, can be given. -/
structure OpaqueWordFormat where
  lead : Text
  upperCase : Bool
  minDigits : Nat
  deriving DecidableEq, Repr

/-- The parameters of a rendered line that the source leaves open (R6, R49 to R51). An argument of the renderer, never
state; the variant is named to `mnemonicText` and `operandOrder` by its code (10_state.md R13). -/
structure RenderParams where
  /-- MNEMONIC_TEXT, for each variant code. -/
  mnemonicText : Nat → Text
  /-- The order of the operands on the line, for each variant code: the positions, in the TOKEN's operand list, of
  the operands to be written, first to last (R51). -/
  operandOrder : Nat → List Nat
  /-- What stands between the mnemonic and the first operand (R51, "the separators between them"). -/
  mnemonicSeparator : Text
  /-- OPERAND_SEPARATOR. -/
  operandSeparator : Text
  /-- DRAW_COUNT_PREFIX: is "0x" written before the draw count? -/
  drawCountZeroX : Bool
  /-- DRAW_COUNT_CASE: are the digits a to f of the draw count in upper case? -/
  drawCountUpper : Bool
  /-- OPAQUE_WORD_FORMAT. -/
  opaqueWord : OpaqueWordFormat
  /-- LINE_TERMINATOR. -/
  lineTerminator : Text

end Sys2Proof
end

