-- ==== Sys2Proof/Syntax.lean ====
section
/-! DEFINITION. The TOKEN data type (10_state.md R12, R13): one constructor for each of the 35 rows of
spec/opcode_table.json, in the table's order, with the operands of R13's column *operands* in its order. An operand's
type is its field's width, so no operand value is out of range (30_encoding.md R32). -/

namespace Sys2Proof

/-- A TOKEN: "tagged variant over the 35 recognized shapes", and with it an instruction of the opcode table, since what
an instruction does on this hardware is that its token is appended (46_sequencer.md R95). Tokens are equal when variant
and operands are equal (R14). -/
inductive Instr where
  /-- clear-screen, `00E0` (R54). -/
  | clearScreen
  /-- return, `00EE` (R55). -/
  | ret
  /-- jump-to-address, `1nnn` (R56). -/
  | jumpToAddress (addr : Addr)
  /-- call-address, `2nnn` (R57). -/
  | callAddress (addr : Addr)
  /-- skip-equal-byte, `3xkk` (R58). -/
  | skipEqualByte (x : RegIndex) (kk : Byte)
  /-- skip-not-equal-byte, `4xkk` (R59). -/
  | skipNotEqualByte (x : RegIndex) (kk : Byte)
  /-- skip-equal-register, `5xy_` (R60). -/
  | skipEqualRegister (x y : RegIndex)
  /-- load-register-byte, `6xkk` (R61). -/
  | loadRegisterByte (x : RegIndex) (kk : Byte)
  /-- add-byte, `7xkk` (R62). -/
  | addByte (x : RegIndex) (kk : Byte)
  /-- skip-not-equal-register, `9xy_` (R63). -/
  | skipNotEqualRegister (x y : RegIndex)
  /-- load-index, `Annn` (R64). -/
  | loadIndex (addr : Addr)
  /-- jump-offset, `Bnnn` (R65). Register 0 is implied and is no operand. -/
  | jumpOffset (addr : Addr)
  /-- random-mask, `Cxkk` (R66). -/
  | randomMask (x : RegIndex) (kk : Byte)
  /-- draw-sprite, `Dxyn` (R67), the only variant with three operands. -/
  | drawSprite (x y : RegIndex) (n : Count)
  /-- copy-register, `8xy0` (R68). -/
  | copyRegister (x y : RegIndex)
  /-- or-register, `8xy1` (R69). -/
  | orRegister (x y : RegIndex)
  /-- and-register, `8xy2` (R70). -/
  | andRegister (x y : RegIndex)
  /-- xor-register, `8xy3` (R71). -/
  | xorRegister (x y : RegIndex)
  /-- add-register, `8xy4` (R72). -/
  | addRegister (x y : RegIndex)
  /-- subtract-register, `8xy5` (R73). -/
  | subtractRegister (x y : RegIndex)
  /-- shift-right, `8xy6` (R74). -/
  | shiftRight (x y : RegIndex)
  /-- subtract-reversed, `8xy7` (R75). -/
  | subtractReversed (x y : RegIndex)
  /-- shift-left, `8xyE` (R76). -/
  | shiftLeft (x y : RegIndex)
  /-- skip-key-pressed, `Ex9E` (R77). -/
  | skipKeyPressed (x : RegIndex)
  /-- skip-key-not-pressed, `ExA1` (R78). -/
  | skipKeyNotPressed (x : RegIndex)
  /-- read-delay-timer, `Fx07` (R79). -/
  | readDelayTimer (x : RegIndex)
  /-- write-delay-timer, `Fx15` (R80). -/
  | writeDelayTimer (x : RegIndex)
  /-- write-sound-timer, `Fx18` (R81). -/
  | writeSoundTimer (x : RegIndex)
  /-- wait-key, `Fx0A` (R82). -/
  | waitKey (x : RegIndex)
  /-- add-index, `Fx1E` (R83). -/
  | addIndex (x : RegIndex)
  /-- load-font-address, `Fx29` (R84). -/
  | loadFontAddress (x : RegIndex)
  /-- store-bcd, `Fx33` (R85). -/
  | storeBcd (x : RegIndex)
  /-- store-registers, `Fx55` (R86). -/
  | storeRegisters (x : RegIndex)
  /-- load-registers, `Fx65` (R87). -/
  | loadRegisters (x : RegIndex)
  /-- opaque-data, every word no other row takes (R88); it carries the whole raw word. -/
  | opaqueData (raw : Word)
  deriving DecidableEq, Repr

/-- The name the spec gives the type whose values the sequencer appends (R12). -/
abbrev Token := Instr

end Sys2Proof
end

