-- ==== Sys2Proof/WellFormed.lean ====
section
/-! DEFINITION. Which terms of `Instr` are tokens the dispatch table can yield. Every operand of a named instruction is
legal (30_encoding.md R32: "no field value is illegal"); the one check is on opaque data, whose raw word must be one
that no instruction pattern takes (45_opaque_data.md R88 to R92). Written from R88 to R92, without the decoder. -/

namespace Sys2Proof

/-- Is this a word of the fallback? One arm for each family that has one (R89 to R92); a word of any other family is
never opaque data (30_encoding.md R42). -/
def IsOpaqueWord (p : Params) (v : Word) : Bool :=
  match (v.extractLsb' 12 4).toNat with
  | 0x0 => v != 0x00E0#16 && v != 0x00EE#16
  | 0x8 => !p.selectors8.contains (v.extractLsb' 0 4)
  | 0xE => !p.selectorsE.contains (v.extractLsb' 0 8)
  | 0xF => !p.selectorsF.contains (v.extractLsb' 0 8)
  | _ => false

/-- The well-formed instructions, under the parameters `p`. -/
def WellFormed (p : Params) : Instr → Bool
  | .clearScreen => true
  | .ret => true
  | .jumpToAddress _ => true
  | .callAddress _ => true
  | .skipEqualByte _ _ => true
  | .skipNotEqualByte _ _ => true
  | .skipEqualRegister _ _ => true
  | .loadRegisterByte _ _ => true
  | .addByte _ _ => true
  | .skipNotEqualRegister _ _ => true
  | .loadIndex _ => true
  | .jumpOffset _ => true
  | .randomMask _ _ => true
  | .drawSprite _ _ _ => true
  | .copyRegister _ _ => true
  | .orRegister _ _ => true
  | .andRegister _ _ => true
  | .xorRegister _ _ => true
  | .addRegister _ _ => true
  | .subtractRegister _ _ => true
  | .shiftRight _ _ => true
  | .subtractReversed _ _ => true
  | .shiftLeft _ _ => true
  | .skipKeyPressed _ => true
  | .skipKeyNotPressed _ => true
  | .readDelayTimer _ => true
  | .writeDelayTimer _ => true
  | .writeSoundTimer _ => true
  | .waitKey _ => true
  | .addIndex _ => true
  | .loadFontAddress _ => true
  | .storeBcd _ => true
  | .storeRegisters _ => true
  | .loadRegisters _ => true
  | .opaqueData raw => IsOpaqueWord p raw

end Sys2Proof
end

