-- ==== Sys2Proof/Decode.lean ====
section
/-! DEFINITION. The field extractor FX (30_encoding.md R29 to R33), the dispatch table DT (R34 to R44, 46_sequencer.md
R93), the decoder on bytes, the encoder, and the dispatch table once more as the rows of spec/opcode_table.json. -/

namespace Sys2Proof

/-! ## FX, the field extractor -/

/-- `FX(hi, lo)`, an InstructionWord from two bytes: the concatenation with `hi` in the high bits (R29). -/
def fx (hi lo : Byte) : Word := hi ++ lo

/-- The byte in bits 15:8 of a word (R29). -/
def highByte (v : Word) : Byte := v.extractLsb' 8 8

/-- The byte in bits 7:0 of a word (R29). -/
def lowByte (v : Word) : Byte := v.extractLsb' 0 8

/-- family, bits 15:12 (R30, R31). -/
def family (v : Word) : Nibble := v.extractLsb' 12 4

/-- x, bits 11:8 (R30, R31). -/
def fieldX (v : Word) : RegIndex := v.extractLsb' 8 4

/-- y, bits 7:4 (R30, R31). -/
def fieldY (v : Word) : RegIndex := v.extractLsb' 4 4

/-- n, bits 3:0 (R30, R31), also called the low nibble. -/
def fieldN (v : Word) : Count := v.extractLsb' 0 4

/-- kk, bits 7:0 (R30, R31), also called the low byte. -/
def fieldKK (v : Word) : Byte := v.extractLsb' 0 8

/-- addr, bits 11:0 (R30, R31). -/
def fieldAddr (v : Word) : Addr := v.extractLsb' 0 12

/-! ## DT, the dispatch table -/

/-- The parameters this machine runs with. PRESUMED: the selectors are the defaults of R41, which the spec takes from
general knowledge (decision D5, log entry 5); the pairing is the positional one of R36 (decision D6, log entry 6). The
source's own numbers (copy-register, subtract-register, load-font-address, families 1 and 6) are no choice. -/
def defaultParams : Params where
  shape1 := .jumpToAddress
  shape2 := .callAddress
  shape3 := .skipEqualByte
  shape4 := .skipNotEqualByte
  shape5 := .skipEqualRegister
  shape6 := .loadRegisterByte
  shape7 := .addByte
  shape9 := .skipNotEqualRegister
  shapeA := .loadIndex
  shapeB := .jumpOffset
  shapeC := .randomMask
  shapeD := .drawSprite
  sel8Or := 0x1
  sel8And := 0x2
  sel8Xor := 0x3
  sel8Add := 0x4
  sel8Shr := 0x6
  sel8Subn := 0x7
  sel8Shl := 0xE
  selESkp := 0x9E
  selESknp := 0xA1
  selFRdt := 0x07
  selFWdt := 0x15
  selFWst := 0x18
  selFKey := 0x0A
  selFAddi := 0x1E
  selFBcd := 0x33
  selFStore := 0x55
  selFLoad := 0x65

/-- The token a word of a single-shape family yields, "parameterized by the word's own bit fields" (R36, R56 to R67).
The low nibble of the two shapes `XY_` is neither examined nor kept (R43). -/
def SingleShape.token (s : SingleShape) (v : Word) : Instr :=
  match s with
  | .jumpToAddress => .jumpToAddress (fieldAddr v)
  | .callAddress => .callAddress (fieldAddr v)
  | .skipEqualByte => .skipEqualByte (fieldX v) (fieldKK v)
  | .skipNotEqualByte => .skipNotEqualByte (fieldX v) (fieldKK v)
  | .skipEqualRegister => .skipEqualRegister (fieldX v) (fieldY v)
  | .loadRegisterByte => .loadRegisterByte (fieldX v) (fieldKK v)
  | .addByte => .addByte (fieldX v) (fieldKK v)
  | .skipNotEqualRegister => .skipNotEqualRegister (fieldX v) (fieldY v)
  | .loadIndex => .loadIndex (fieldAddr v)
  | .jumpOffset => .jumpOffset (fieldAddr v)
  | .randomMask => .randomMask (fieldX v) (fieldKK v)
  | .drawSprite => .drawSprite (fieldX v) (fieldY v) (fieldN v)

/-- Family 0x0: two exact matches on all sixteen bits, anything else opaque data (R37, R54, R55, R89). -/
def classifyFamily0 (v : Word) : Instr :=
  if v = 0x00E0#16 then .clearScreen
  else if v = 0x00EE#16 then .ret
  else .opaqueData v

/-- Family 0x8: secondary dispatch on the low nibble (R38, R68 to R76, R90). -/
def classifyFamily8 (p : Params) (v : Word) : Instr :=
  let n := fieldN v
  if n = 0x0#4 then .copyRegister (fieldX v) (fieldY v)
  else if n = p.sel8Or then .orRegister (fieldX v) (fieldY v)
  else if n = p.sel8And then .andRegister (fieldX v) (fieldY v)
  else if n = p.sel8Xor then .xorRegister (fieldX v) (fieldY v)
  else if n = p.sel8Add then .addRegister (fieldX v) (fieldY v)
  else if n = 0x5#4 then .subtractRegister (fieldX v) (fieldY v)
  else if n = p.sel8Shr then .shiftRight (fieldX v) (fieldY v)
  else if n = p.sel8Subn then .subtractReversed (fieldX v) (fieldY v)
  else if n = p.sel8Shl then .shiftLeft (fieldX v) (fieldY v)
  else .opaqueData v

/-- Family 0xE: secondary dispatch on the low byte (R39, R77, R78, R91). -/
def classifyFamilyE (p : Params) (v : Word) : Instr :=
  let k := fieldKK v
  if k = p.selESkp then .skipKeyPressed (fieldX v)
  else if k = p.selESknp then .skipKeyNotPressed (fieldX v)
  else .opaqueData v

/-- Family 0xF: secondary dispatch on the low byte (R40, R79 to R87, R92). -/
def classifyFamilyF (p : Params) (v : Word) : Instr :=
  let k := fieldKK v
  if k = p.selFRdt then .readDelayTimer (fieldX v)
  else if k = p.selFWdt then .writeDelayTimer (fieldX v)
  else if k = p.selFWst then .writeSoundTimer (fieldX v)
  else if k = p.selFKey then .waitKey (fieldX v)
  else if k = p.selFAddi then .addIndex (fieldX v)
  else if k = 0x29#8 then .loadFontAddress (fieldX v)
  else if k = p.selFBcd then .storeBcd (fieldX v)
  else if k = p.selFStore then .storeRegisters (fieldX v)
  else if k = p.selFLoad then .loadRegisters (fieldX v)
  else .opaqueData v

/-- `classify(v)` under the parameters `p`: the "16-way branch on the family" (R34) with the secondary dispatches of
families 0, 8, E and F (R93). -/
def classifyWith (p : Params) (v : Word) : Instr :=
  match (family v).toNat with
  | 0x0 => classifyFamily0 v
  | 0x1 => p.shape1.token v
  | 0x2 => p.shape2.token v
  | 0x3 => p.shape3.token v
  | 0x4 => p.shape4.token v
  | 0x5 => p.shape5.token v
  | 0x6 => p.shape6.token v
  | 0x7 => p.shape7.token v
  | 0x8 => classifyFamily8 p v
  | 0x9 => p.shape9.token v
  | 0xA => p.shapeA.token v
  | 0xB => p.shapeB.token v
  | 0xC => p.shapeC.token v
  | 0xD => p.shapeD.token v
  | 0xE => classifyFamilyE p v
  | _ => classifyFamilyF p v

/-- `classify(v)` of R93 with the spec's default parameters. -/
def classify (v : Word) : Token := classifyWith defaultParams v

/-! ## The decoder on bytes -/

/-- Why no instruction is read from a byte sequence: only that fewer than two bytes remain (46_sequencer.md R96). No
byte content is ever rejected (R42, R100). -/
inductive DecodeReject where
  /-- No byte remains. -/
  | endOfBuffer
  /-- One byte remains: the odd trailing byte, which is dropped (20_memory.md R21). -/
  | oddTrailingByte
  deriving DecidableEq, Repr

/-- What the decoder answers for a byte sequence. -/
inductive Decoded where
  | instr (i : Instr) (rest : List Byte)
  | rejected (r : DecodeReject)
  deriving DecidableEq, Repr

/-- The decoder: the first two bytes, high byte first (20_memory.md R19), and the bytes that are left. -/
def decodeBytes : List Byte → Decoded
  | [] => .rejected .endOfBuffer
  | [_] => .rejected .oddTrailingByte
  | hi :: lo :: rest => .instr (classify (fx hi lo)) rest

/-- A whole byte sequence, pair by pair: the linear sweep of 46_sequencer.md R101, an odd trailing byte dropped. -/
def sweep : List Byte → List Token
  | hi :: lo :: rest => classify (fx hi lo) :: sweep rest
  | _ => []

/-- The bytes of a word as the buffer holds them, high byte first (20_memory.md R19). -/
def wordBytes (v : Word) : List Byte := [highByte v, lowByte v]

/-- The word that an opcode-table row's bits make: bit 0 is the least significant, and every bit at `nbits` and above is
0. Every instruction of this hardware is one 16-bit word (R28). -/
def tableWord (nbits w : Nat) : Word := BitVec.ofNat 16 (w % 2 ^ nbits)

/-- The instruction the decoder reads from a table word laid out as the buffer holds it. -/
def decodeTableWord (nbits w : Nat) : Option Instr :=
  match decodeBytes (wordBytes (tableWord nbits w)) with
  | .instr i _ => some i
  | .rejected _ => none

/-! ## The encoder

Re-encoding is a non-goal of the source (00_scope.md R4); the encoder is the model's own, for stating that decoding
drops no operand bit (log entry 15). DESIGN CHOICE: it writes 0 in the low nibble of the two shapes `XY_`, which the
decoder does not look at (R43). -/

/-- The family that selects a single-shape instruction under `p` (R36 read backwards; every instruction has one when
`p` is admissible). -/
def Params.familyOf (p : Params) (s : SingleShape) : Nibble :=
  if p.shape1 = s then 0x1
  else if p.shape2 = s then 0x2
  else if p.shape3 = s then 0x3
  else if p.shape4 = s then 0x4
  else if p.shape5 = s then 0x5
  else if p.shape6 = s then 0x6
  else if p.shape7 = s then 0x7
  else if p.shape9 = s then 0x9
  else if p.shapeA = s then 0xA
  else if p.shapeB = s then 0xB
  else if p.shapeC = s then 0xC
  else 0xD

/-- A word of shape `A` (30_encoding.md R35): family, addr. -/
def wordA (f : Nibble) (a : Addr) : Word := f ++ a

/-- A word of shape `XK` or `Xss` (R35): family, x, low byte. -/
def wordXK (f : Nibble) (x : RegIndex) (kk : Byte) : Word := (f ++ x) ++ kk

/-- A word of shape `XY_`, `XYN` or `XYs` (R35): family, x, y, low nibble. -/
def wordXYN (f : Nibble) (x y : RegIndex) (n : Nibble) : Word := ((f ++ x) ++ y) ++ n

/-- A word that classifies to the instruction, when that is well formed and `p` admissible. -/
def encodeWith (p : Params) : Instr → Word
  | .clearScreen => 0x00E0
  | .ret => 0x00EE
  | .jumpToAddress a => wordA (p.familyOf .jumpToAddress) a
  | .callAddress a => wordA (p.familyOf .callAddress) a
  | .skipEqualByte x kk => wordXK (p.familyOf .skipEqualByte) x kk
  | .skipNotEqualByte x kk => wordXK (p.familyOf .skipNotEqualByte) x kk
  | .skipEqualRegister x y => wordXYN (p.familyOf .skipEqualRegister) x y 0x0
  | .loadRegisterByte x kk => wordXK (p.familyOf .loadRegisterByte) x kk
  | .addByte x kk => wordXK (p.familyOf .addByte) x kk
  | .skipNotEqualRegister x y => wordXYN (p.familyOf .skipNotEqualRegister) x y 0x0
  | .loadIndex a => wordA (p.familyOf .loadIndex) a
  | .jumpOffset a => wordA (p.familyOf .jumpOffset) a
  | .randomMask x kk => wordXK (p.familyOf .randomMask) x kk
  | .drawSprite x y n => wordXYN (p.familyOf .drawSprite) x y n
  | .copyRegister x y => wordXYN 0x8 x y 0x0
  | .orRegister x y => wordXYN 0x8 x y p.sel8Or
  | .andRegister x y => wordXYN 0x8 x y p.sel8And
  | .xorRegister x y => wordXYN 0x8 x y p.sel8Xor
  | .addRegister x y => wordXYN 0x8 x y p.sel8Add
  | .subtractRegister x y => wordXYN 0x8 x y 0x5
  | .shiftRight x y => wordXYN 0x8 x y p.sel8Shr
  | .subtractReversed x y => wordXYN 0x8 x y p.sel8Subn
  | .shiftLeft x y => wordXYN 0x8 x y p.sel8Shl
  | .skipKeyPressed x => wordXK 0xE x p.selESkp
  | .skipKeyNotPressed x => wordXK 0xE x p.selESknp
  | .readDelayTimer x => wordXK 0xF x p.selFRdt
  | .writeDelayTimer x => wordXK 0xF x p.selFWdt
  | .writeSoundTimer x => wordXK 0xF x p.selFWst
  | .waitKey x => wordXK 0xF x p.selFKey
  | .addIndex x => wordXK 0xF x p.selFAddi
  | .loadFontAddress x => wordXK 0xF x 0x29
  | .storeBcd x => wordXK 0xF x p.selFBcd
  | .storeRegisters x => wordXK 0xF x p.selFStore
  | .loadRegisters x => wordXK 0xF x p.selFLoad
  | .opaqueData raw => raw

/-- The word of an instruction with the default parameters. -/
def encode (i : Instr) : Word := encodeWith defaultParams i

/-! ## Variant codes and the rows of opcode_table.json -/

/-- The code of a single-shape instruction (10_state.md R13). -/
def SingleShape.code : SingleShape → Nat
  | .jumpToAddress => 2
  | .callAddress => 3
  | .skipEqualByte => 4
  | .skipNotEqualByte => 5
  | .skipEqualRegister => 6
  | .loadRegisterByte => 7
  | .addByte => 8
  | .skipNotEqualRegister => 9
  | .loadIndex => 10
  | .jumpOffset => 11
  | .randomMask => 12
  | .drawSprite => 13

/-- VARIANT_CODE: the number of a variant on a hardware port, 0 to 34 in the order of R13 (decision D4, log entry 9). No
meaning depends on it. -/
def Instr.code : Instr → Nat
  | .clearScreen => 0
  | .ret => 1
  | .jumpToAddress _ => 2
  | .callAddress _ => 3
  | .skipEqualByte _ _ => 4
  | .skipNotEqualByte _ _ => 5
  | .skipEqualRegister _ _ => 6
  | .loadRegisterByte _ _ => 7
  | .addByte _ _ => 8
  | .skipNotEqualRegister _ _ => 9
  | .loadIndex _ => 10
  | .jumpOffset _ => 11
  | .randomMask _ _ => 12
  | .drawSprite _ _ _ => 13
  | .copyRegister _ _ => 14
  | .orRegister _ _ => 15
  | .andRegister _ _ => 16
  | .xorRegister _ _ => 17
  | .addRegister _ _ => 18
  | .subtractRegister _ _ => 19
  | .shiftRight _ _ => 20
  | .subtractReversed _ _ => 21
  | .shiftLeft _ _ => 22
  | .skipKeyPressed _ => 23
  | .skipKeyNotPressed _ => 24
  | .readDelayTimer _ => 25
  | .writeDelayTimer _ => 26
  | .writeSoundTimer _ => 27
  | .waitKey _ => 28
  | .addIndex _ => 29
  | .loadFontAddress _ => 30
  | .storeBcd _ => 31
  | .storeRegisters _ => 32
  | .loadRegisters _ => 33
  | .opaqueData _ => 34

/-- Is this token the fallback variant (R88)? -/
def Instr.isOpaque (i : Instr) : Bool := i.code == 34

/-- The fields of a word that can be operands (R12, R30), and the whole word for opaque data. -/
inductive Field where
  | x
  | y
  | n
  | kk
  | addr
  | raw
  deriving DecidableEq, Repr

/-- A row of the dispatch table as spec/opcode_table.json writes it (30_encoding.md section 4). -/
structure OpcodeRow where
  code : Nat
  mask : Word
  pattern : Word
  operands : List Field
  deriving DecidableEq, Repr

/-- `v & mask == match`: does the word select the row? -/
def OpcodeRow.takes (r : OpcodeRow) (v : Word) : Bool := (v &&& r.mask) == r.pattern

/-- The operands of a single-shape row (R35, R36). -/
def SingleShape.operandFields : SingleShape → List Field
  | .jumpToAddress => [.addr]
  | .callAddress => [.addr]
  | .skipEqualByte => [.x, .kk]
  | .skipNotEqualByte => [.x, .kk]
  | .skipEqualRegister => [.x, .y]
  | .loadRegisterByte => [.x, .kk]
  | .addByte => [.x, .kk]
  | .skipNotEqualRegister => [.x, .y]
  | .loadIndex => [.addr]
  | .jumpOffset => [.addr]
  | .randomMask => [.x, .kk]
  | .drawSprite => [.x, .y, .n]

/-- The row of a single-shape family: mask 0xF000. -/
def singleShapeRow (pattern : Word) (s : SingleShape) : OpcodeRow :=
  { code := s.code, mask := 0xF000, pattern := pattern, operands := s.operandFields }

/-- A row of family 8: mask 0xF00F. -/
def family8Row (code : Nat) (sel : Nibble) : OpcodeRow :=
  { code := code, mask := 0xF00F, pattern := wordXYN 0x8 0x0 0x0 sel, operands := [.x, .y] }

/-- A row of family E or F: mask 0xF0FF. -/
def lowByteRow (code : Nat) (f : Nibble) (sel : Byte) : OpcodeRow :=
  { code := code, mask := 0xF0FF, pattern := wordXK f 0x0 sel, operands := [.x] }

/-- The rows of family 0: mask 0xFFFF. -/
def rowsFamily0 : List OpcodeRow :=
  [{ code := 0, mask := 0xFFFF, pattern := 0x00E0, operands := [] },
    { code := 1, mask := 0xFFFF, pattern := 0x00EE, operands := [] }]

/-- The rows of the twelve single-shape families, in the order of the families. -/
def rowsSingleShape (p : Params) : List OpcodeRow :=
  [singleShapeRow 0x1000 p.shape1, singleShapeRow 0x2000 p.shape2, singleShapeRow 0x3000 p.shape3,
    singleShapeRow 0x4000 p.shape4, singleShapeRow 0x5000 p.shape5, singleShapeRow 0x6000 p.shape6,
    singleShapeRow 0x7000 p.shape7, singleShapeRow 0x9000 p.shape9, singleShapeRow 0xA000 p.shapeA,
    singleShapeRow 0xB000 p.shapeB, singleShapeRow 0xC000 p.shapeC, singleShapeRow 0xD000 p.shapeD]

/-- The nine rows of family 8. -/
def rowsFamily8 (p : Params) : List OpcodeRow :=
  [family8Row 14 0x0, family8Row 15 p.sel8Or, family8Row 16 p.sel8And, family8Row 17 p.sel8Xor,
    family8Row 18 p.sel8Add, family8Row 19 0x5, family8Row 20 p.sel8Shr, family8Row 21 p.sel8Subn,
    family8Row 22 p.sel8Shl]

/-- The two rows of family E and the nine of family F. -/
def rowsFamiliesEF (p : Params) : List OpcodeRow :=
  [lowByteRow 23 0xE p.selESkp, lowByteRow 24 0xE p.selESknp,
    lowByteRow 25 0xF p.selFRdt, lowByteRow 26 0xF p.selFWdt, lowByteRow 27 0xF p.selFWst,
    lowByteRow 28 0xF p.selFKey, lowByteRow 29 0xF p.selFAddi, lowByteRow 30 0xF 0x29,
    lowByteRow 31 0xF p.selFBcd, lowByteRow 32 0xF p.selFStore, lowByteRow 33 0xF p.selFLoad]

/-- The 34 instruction rows of opcode_table.json, in its order under the default parameters. -/
def opcodeRows (p : Params) : List OpcodeRow :=
  rowsFamily0 ++ rowsSingleShape p ++ rowsFamily8 p ++ rowsFamiliesEF p

/-- The last row, the fallback: "mask 0x0000, match 0x0000". -/
def fallbackRow : OpcodeRow := { code := 34, mask := 0x0000, pattern := 0x0000, operands := [.raw] }

/-- The row a word selects by the table: the first instruction row that takes it, else the fallback. -/
def rowOf (p : Params) (v : Word) : OpcodeRow :=
  ((opcodeRows p).find? (fun r => r.takes v)).getD fallbackRow

/-! ## FX and DT as hardware -/

/-- The outputs of FX (R33; decision D2): wirings of the input bits. -/
structure FxPorts where
  raw : Word
  family : Nibble
  x : RegIndex
  y : RegIndex
  n : Count
  kk : Byte
  addr : Addr
  deriving DecidableEq, Repr

/-- FX as a combinational block from its two input bytes (R31, "in terms of the two bytes"). -/
def fxPorts (hi lo : Byte) : FxPorts where
  raw := hi ++ lo
  family := hi.extractLsb' 4 4
  x := hi.extractLsb' 0 4
  y := lo.extractLsb' 4 4
  n := lo.extractLsb' 0 4
  kk := lo
  addr := hi.extractLsb' 0 4 ++ lo

/-- The outputs of DT (46_sequencer.md R97): the variant code and the fields of FX passed through. -/
structure DtPorts where
  variant : BitVec 6
  fields : FxPorts
  deriving DecidableEq, Repr

/-- DT as a combinational block (R97; decision D3). -/
def dtPorts (p : Params) (raw : Word) : DtPorts where
  variant := BitVec.ofNat 6 (classifyWith p raw).code
  fields := fxPorts (highByte raw) (lowByte raw)

/-- The TOKEN a consumer reads from DT's ports: the variant, and of the fields only those that R13 lists as its operands
(R97: "the others are to be ignored by the consumer"). No code above 34 stands for a variant. -/
def DtPorts.token (d : DtPorts) : Option Token :=
  match d.variant.toNat with
  | 0 => some .clearScreen
  | 1 => some .ret
  | 2 => some (.jumpToAddress d.fields.addr)
  | 3 => some (.callAddress d.fields.addr)
  | 4 => some (.skipEqualByte d.fields.x d.fields.kk)
  | 5 => some (.skipNotEqualByte d.fields.x d.fields.kk)
  | 6 => some (.skipEqualRegister d.fields.x d.fields.y)
  | 7 => some (.loadRegisterByte d.fields.x d.fields.kk)
  | 8 => some (.addByte d.fields.x d.fields.kk)
  | 9 => some (.skipNotEqualRegister d.fields.x d.fields.y)
  | 10 => some (.loadIndex d.fields.addr)
  | 11 => some (.jumpOffset d.fields.addr)
  | 12 => some (.randomMask d.fields.x d.fields.kk)
  | 13 => some (.drawSprite d.fields.x d.fields.y d.fields.n)
  | 14 => some (.copyRegister d.fields.x d.fields.y)
  | 15 => some (.orRegister d.fields.x d.fields.y)
  | 16 => some (.andRegister d.fields.x d.fields.y)
  | 17 => some (.xorRegister d.fields.x d.fields.y)
  | 18 => some (.addRegister d.fields.x d.fields.y)
  | 19 => some (.subtractRegister d.fields.x d.fields.y)
  | 20 => some (.shiftRight d.fields.x d.fields.y)
  | 21 => some (.subtractReversed d.fields.x d.fields.y)
  | 22 => some (.shiftLeft d.fields.x d.fields.y)
  | 23 => some (.skipKeyPressed d.fields.x)
  | 24 => some (.skipKeyNotPressed d.fields.x)
  | 25 => some (.readDelayTimer d.fields.x)
  | 26 => some (.writeDelayTimer d.fields.x)
  | 27 => some (.writeSoundTimer d.fields.x)
  | 28 => some (.waitKey d.fields.x)
  | 29 => some (.addIndex d.fields.x)
  | 30 => some (.loadFontAddress d.fields.x)
  | 31 => some (.storeBcd d.fields.x)
  | 32 => some (.storeRegisters d.fields.x)
  | 33 => some (.loadRegisters d.fields.x)
  | 34 => some (.opaqueData d.fields.raw)
  | _ => none

end Sys2Proof
end

