-- ==== Sys2Proof/Machine/State.lean ====
section
/-! DEFINITION. The state of a decode session (10_state.md R7), the reasons a step can stop (none: 60_exceptions.md R102,
R106), and the state at reset (10_state.md R16, 70_reset_and_hazards.md R113). -/

namespace Sys2Proof.Machine

/-- A buffer's bytes: a list of (offset, byte) cells in one canonical form (`Memory.wf`). An offset that is not listed
reads as `unlistedByte`, so that every sequence of bytes is one such list, and only one (log entry 2). -/
abbrev Memory := List Host.Cell

/-- What an offset that is not listed reads as. DESIGN CHOICE (log entry 2): with `State.len` beside it this is a way of
writing a buffer down, in which each of the host's buffers has exactly one form. -/
def unlistedByte : Byte := 0x00

/-- The canonical form, from an offset on: offsets strictly rising, none below `lo`, no cell that says what an unlisted
offset reads as anyway. -/
def Memory.wfFrom (lo : Nat) : Memory → Bool
  | [] => true
  | c :: m => decide (lo ≤ c.1) && c.2 != unlistedByte && Memory.wfFrom (c.1 + 1) m

/-- The canonical form of a buffer's cells. -/
def Memory.wf (m : Memory) : Bool := Memory.wfFrom 0 m

/-- The reasons a step can fault: none. "C8DEC raises no exception of any kind" (R102), so there is no constructor, and
no instruction, operand or state raises a fault. Safe by the spec's own statement (log entry 17). -/
inductive Fault where
  deriving DecidableEq, Repr

/-- The reasons a step can be refused. -/
inductive Refusal where
  /-- Raised by an arm of `exec` whose instruction has no meaning yet, and by nothing else. Safe. No arm raises it: every
  row of the opcode table has its meaning (R102: no refusal "for any input"). -/
  | notModelled (mnemonic : String)
  deriving DecidableEq, Repr

/-- The state of a session. `cursor` and `out` are "the only mutable state" (R7); `buf` and `len` are the session's
inputs (R8: "parameters of the step relation, not fields of the state"), carried here because the host's form of a step
takes nothing but a state, and written by no step; `decodeStep` has them as parameters (log entry 1). -/
structure State where
  /-- The length of the input buffer, any natural number (R8). -/
  len : Nat
  /-- The bytes of the input buffer, at offsets 0 to `len - 1` (R8, 20_memory.md R18, R24). -/
  buf : Memory
  /-- The read cursor: the offset of the next byte pair (R9). It stands where a program counter would. -/
  cursor : Nat
  /-- The output: the tokens of the words decoded so far, first to last (R11). -/
  out : List Token
  deriving DecidableEq, Repr

/-- Reset is the start of a session: `cursor` 0 and `out` empty (R16, R113). `buf` and `len` are "whatever the host
supplied": here, before any host has, nothing. DESIGN CHOICE (log entry 3); `State.start` is reset over any buffer. -/
def State.reset : State where
  len := 0
  buf := []
  cursor := 0
  out := []

/-- The outcomes of a step of this machine. -/
abbrev StepOutcome := Host.Outcome State Fault Refusal

end Sys2Proof.Machine
end

