-- ==== Sys2Proof/Machine/Flags.lean ====
section
/-! DEFINITION. C8DEC has no flag, no condition code and no status register (10_state.md R15), and no instruction rule
computes one ("*Flags:* none" in every rule R54 to R88). What a host could call status is one bit that is computed and
not stored: whether the session has ended (R15, 46_sequencer.md R96, R97). -/

namespace Sys2Proof.Machine

/-- The session has ended "exactly when `len - cursor < 2`" (R96). The test reads `cursor` and `len` only, and no byte.
Truncated subtraction changes no result (R120). -/
def State.ended (s : State) : Bool := decide (s.len - s.cursor < 2)

end Sys2Proof.Machine
end

