-- ==== Sys2Proof/Machine/Ops.lean ====
section
/-! DEFINITION. The operations over the buffer, the cursor and the output. The machine itself reads the buffer and
appends to the output, and does nothing else (20_memory.md R18, R22, R23); the writes to the buffer here are the host's,
before a session (70_reset_and_hazards.md R114). There is no exception to take and none to return from (60_exceptions.md
R106, R107). -/

namespace Sys2Proof.Machine

/-! ## The buffer -/

/-- The byte at an offset. -/
def Memory.read : Memory → Nat → Byte
  | [], _ => unlistedByte
  | c :: m, a => if c.1 = a then c.2 else Memory.read m a

/-- A host's write of one byte, keeping the canonical form: writing `unlistedByte` removes the cell. -/
def Memory.write : Memory → Nat → Byte → Memory
  | [], a, b => if b = unlistedByte then [] else [(a, b)]
  | c :: m, a, b =>
    if a < c.1 then (if b = unlistedByte then c :: m else (a, b) :: c :: m)
    else if a = c.1 then (if b = unlistedByte then m else (a, b) :: m)
    else c :: Memory.write m a b

/-- The cells of a byte sequence that stands from an offset on. -/
def Memory.ofBytesFrom : Nat → List Byte → Memory
  | _, [] => []
  | a, b :: bs =>
    if b = unlistedByte then Memory.ofBytesFrom (a + 1) bs else (a, b) :: Memory.ofBytesFrom (a + 1) bs

/-- The cells of a whole buffer: byte 0 at offset 0 ("interpreted with no header", 10_state.md R8). -/
def Memory.ofBytes (bs : List Byte) : Memory := Memory.ofBytesFrom 0 bs

/-- `buf[i]`: the byte at offset `i`, defined for `i < len` (00_scope.md section 4; 20_memory.md R24). -/
def State.readByte (s : State) (i : Nat) : Option Byte :=
  if i < s.len then some (Memory.read s.buf i) else none

/-! ## The fetch -/

/-- The two offsets the next fetch reads, or none: the stop test precedes every fetch (R96, 60_exceptions.md R102). -/
def fetchOffsets (s : State) : Option (Nat × Nat) :=
  if s.ended then none else some (s.cursor, s.cursor + 1)

/-- The word at the cursor, high byte at the lower offset (R94, 20_memory.md R19). -/
def fetchWord (s : State) : Option Word :=
  match fetchOffsets s with
  | none => none
  | some (hi, lo) => some (fx (Memory.read s.buf hi) (Memory.read s.buf lo))

/-! ## The effect of a step -/

/-- `out <- out ++ [t]` (20_memory.md R23): the only write access. -/
def appendToken (t : Token) (s : State) : State := { s with out := s.out ++ [t] }

/-- `cursor <- cursor + 2` (10_state.md R9): the only assignment to the cursor after reset. -/
def advanceCursor (s : State) : State := { s with cursor := s.cursor + 2 }

/-- What every instruction does on this hardware, once its word is fetched and classified: "append exactly one Token,
advance the cursor by 2" (R95). It cannot fail (R95, R102), and no token moves the cursor otherwise (R101). -/
def emitToken (t : Token) (s : State) : StepOutcome := .next (advanceCursor (appendToken t s))

/-- What a step is once the session has ended. An ended session is "final, not stuck and not faulted" (R96), and "the
step function has one outcome, the next state" (decision D18): the state stays as it is. DESIGN CHOICE (log entry 4). -/
def endOfSession (s : State) : StepOutcome := .next s

/-! ## The host's load of one word -/

/-- The state with the word `v` at the cursor: its two bytes stored high byte first, and the buffer made long enough to
hold them. Nothing else changes. -/
def placeWord (s : State) (v : Word) : State :=
  { s with
    len := max s.len (s.cursor + 2)
    buf := Memory.write (Memory.write s.buf s.cursor (highByte v)) (s.cursor + 1) (lowByte v) }

end Sys2Proof.Machine
end

