-- ==== Sys2Proof/Machine/FamilyE.lean ====
section
/-! DEFINITION. The meanings of family 0xE, the two key-state skips (43_familyE_key_skips.md). The decoder has no key
input and skips no word. Each is R95's effect with the token its rule names; flags and exceptions: none. -/

namespace Sys2Proof.Machine

/-- `skip-key-pressed(x)` (R77): its token is appended and the cursor advances by 2 (R95). -/
def execSkipKeyPressed (x : RegIndex) (s : State) : StepOutcome := emitToken (.skipKeyPressed x) s

/-- `skip-key-not-pressed(x)` (R78): its token is appended and the cursor advances by 2 (R95). -/
def execSkipKeyNotPressed (x : RegIndex) (s : State) : StepOutcome := emitToken (.skipKeyNotPressed x) s

end Sys2Proof.Machine
end

