-- ==== Sys2Proof/Machine/FamilyEight.lean ====
section
/-! DEFINITION. The meanings of family 0x8, the nine register-to-register instructions (42_family8_register_alu.md).
"None of that arithmetic is done by the decoder": no register is read and no flag computed (10_state.md R10, R15). Each
is R95's effect with the token its rule names; flags and exceptions: none. -/

namespace Sys2Proof.Machine

/-- `copy-register(x, y)` (R68): its token is appended and the cursor advances by 2 (R95). -/
def execCopyRegister (x : RegIndex) (y : RegIndex) (s : State) : StepOutcome := emitToken (.copyRegister x y) s

/-- `or-register(x, y)` (R69): its token is appended and the cursor advances by 2 (R95). -/
def execOrRegister (x : RegIndex) (y : RegIndex) (s : State) : StepOutcome := emitToken (.orRegister x y) s

/-- `and-register(x, y)` (R70): its token is appended and the cursor advances by 2 (R95). -/
def execAndRegister (x : RegIndex) (y : RegIndex) (s : State) : StepOutcome := emitToken (.andRegister x y) s

/-- `xor-register(x, y)` (R71): its token is appended and the cursor advances by 2 (R95). -/
def execXorRegister (x : RegIndex) (y : RegIndex) (s : State) : StepOutcome := emitToken (.xorRegister x y) s

/-- `add-register(x, y)` (R72): its token is appended and the cursor advances by 2 (R95). -/
def execAddRegister (x : RegIndex) (y : RegIndex) (s : State) : StepOutcome := emitToken (.addRegister x y) s

/-- `subtract-register(x, y)` (R73): its token is appended and the cursor advances by 2 (R95). -/
def execSubtractRegister (x : RegIndex) (y : RegIndex) (s : State) : StepOutcome := emitToken (.subtractRegister x y) s

/-- `shift-right(x, y)` (R74): its token is appended and the cursor advances by 2 (R95). -/
def execShiftRight (x : RegIndex) (y : RegIndex) (s : State) : StepOutcome := emitToken (.shiftRight x y) s

/-- `subtract-reversed(x, y)` (R75): its token is appended and the cursor advances by 2 (R95). -/
def execSubtractReversed (x : RegIndex) (y : RegIndex) (s : State) : StepOutcome := emitToken (.subtractReversed x y) s

/-- `shift-left(x, y)` (R76): its token is appended and the cursor advances by 2 (R95). -/
def execShiftLeft (x : RegIndex) (y : RegIndex) (s : State) : StepOutcome := emitToken (.shiftLeft x y) s

end Sys2Proof.Machine
end

