-- ==== Sys2Proof/Machine/FamilyF.lean ====
section
/-! DEFINITION. The meanings of family 0xF: timers, key wait, index register, memory block
(44_familyF_timer_index_memory.md). The decoder has none of these and waits for nothing (R82, 10_state.md R15,
20_memory.md R18). Each is R95's effect with the token its rule names; flags and exceptions: none. -/

namespace Sys2Proof.Machine

/-- `read-delay-timer(x)` (R79): its token is appended and the cursor advances by 2 (R95). -/
def execReadDelayTimer (x : RegIndex) (s : State) : StepOutcome := emitToken (.readDelayTimer x) s

/-- `write-delay-timer(x)` (R80): its token is appended and the cursor advances by 2 (R95). -/
def execWriteDelayTimer (x : RegIndex) (s : State) : StepOutcome := emitToken (.writeDelayTimer x) s

/-- `write-sound-timer(x)` (R81): its token is appended and the cursor advances by 2 (R95). -/
def execWriteSoundTimer (x : RegIndex) (s : State) : StepOutcome := emitToken (.writeSoundTimer x) s

/-- `wait-key(x)` (R82): its token is appended and the cursor advances by 2 (R95). -/
def execWaitKey (x : RegIndex) (s : State) : StepOutcome := emitToken (.waitKey x) s

/-- `add-index(x)` (R83): its token is appended and the cursor advances by 2 (R95). -/
def execAddIndex (x : RegIndex) (s : State) : StepOutcome := emitToken (.addIndex x) s

/-- `load-font-address(x)` (R84): its token is appended and the cursor advances by 2 (R95). -/
def execLoadFontAddress (x : RegIndex) (s : State) : StepOutcome := emitToken (.loadFontAddress x) s

/-- `store-bcd(x)` (R85): its token is appended and the cursor advances by 2 (R95). -/
def execStoreBcd (x : RegIndex) (s : State) : StepOutcome := emitToken (.storeBcd x) s

/-- `store-registers(x)` (R86): its token is appended and the cursor advances by 2 (R95). -/
def execStoreRegisters (x : RegIndex) (s : State) : StepOutcome := emitToken (.storeRegisters x) s

/-- `load-registers(x)` (R87): its token is appended and the cursor advances by 2 (R95). -/
def execLoadRegisters (x : RegIndex) (s : State) : StepOutcome := emitToken (.loadRegisters x) s

end Sys2Proof.Machine
end

