-- ==== Sys2Proof/Machine/FamilyZero.lean ====
section
/-! DEFINITION. The meanings of family 0x0 (40_family0_screen_return.md): clear-screen and return. The decoder clears no
screen and keeps no call stack (00_scope.md R4, R55). Each is R95's effect with the token its rule names; flags and
exceptions: none. -/

namespace Sys2Proof.Machine

/-- `clear-screen` (R54): its token is appended and the cursor advances by 2 (R95). -/
def execClearScreen (s : State) : StepOutcome := emitToken .clearScreen s

/-- `return` (R55): its token is appended and the cursor advances by 2 (R95). -/
def execRet (s : State) : StepOutcome := emitToken .ret s

end Sys2Proof.Machine
end

