-- ==== Sys2Proof/Machine/OpaqueData.lean ====
section
/-! DEFINITION. The meaning of the fallback (45_opaque_data.md). Producing opaque data is "a normal, successful
result", and the session goes on as after any token (R88, 60_exceptions.md R106). It is R95's effect with the token
its rule names; flags and exceptions: none. -/

namespace Sys2Proof.Machine

/-- `opaque-data(raw)` (R88): its token is appended and the cursor advances by 2 (R95). -/
def execOpaqueData (raw : Word) (s : State) : StepOutcome := emitToken (.opaqueData raw) s

end Sys2Proof.Machine
end

