-- ==== Sys2Proof/Machine/SingleShape.lean ====
section
/-! DEFINITION. The meanings of the twelve single-shape families 0x1 to 0x7, 0x9, 0xA to 0xD
(41_single_shape_families.md). The decoder follows no jump, skips no word, draws no number and no sprite
(46_sequencer.md R100, R101; 00_scope.md R4). Each is R95's effect with the token its rule names; flags and exceptions:
none. -/

namespace Sys2Proof.Machine

/-- `jump-to-address(addr)` (R56): its token is appended and the cursor advances by 2 (R95). -/
def execJumpToAddress (addr : Addr) (s : State) : StepOutcome := emitToken (.jumpToAddress addr) s

/-- `call-address(addr)` (R57): its token is appended and the cursor advances by 2 (R95). -/
def execCallAddress (addr : Addr) (s : State) : StepOutcome := emitToken (.callAddress addr) s

/-- `skip-equal-byte(x, kk)` (R58): its token is appended and the cursor advances by 2 (R95). -/
def execSkipEqualByte (x : RegIndex) (kk : Byte) (s : State) : StepOutcome := emitToken (.skipEqualByte x kk) s

/-- `skip-not-equal-byte(x, kk)` (R59): its token is appended and the cursor advances by 2 (R95). -/
def execSkipNotEqualByte (x : RegIndex) (kk : Byte) (s : State) : StepOutcome := emitToken (.skipNotEqualByte x kk) s

/-- `skip-equal-register(x, y)` (R60): its token is appended and the cursor advances by 2 (R95). -/
def execSkipEqualRegister (x : RegIndex) (y : RegIndex) (s : State) : StepOutcome := emitToken (.skipEqualRegister x y) s

/-- `load-register-byte(x, kk)` (R61): its token is appended and the cursor advances by 2 (R95). -/
def execLoadRegisterByte (x : RegIndex) (kk : Byte) (s : State) : StepOutcome := emitToken (.loadRegisterByte x kk) s

/-- `add-byte(x, kk)` (R62): its token is appended and the cursor advances by 2 (R95). -/
def execAddByte (x : RegIndex) (kk : Byte) (s : State) : StepOutcome := emitToken (.addByte x kk) s

/-- `skip-not-equal-register(x, y)` (R63): its token is appended and the cursor advances by 2 (R95). -/
def execSkipNotEqualRegister (x : RegIndex) (y : RegIndex) (s : State) : StepOutcome := emitToken (.skipNotEqualRegister x y) s

/-- `load-index(addr)` (R64): its token is appended and the cursor advances by 2 (R95). -/
def execLoadIndex (addr : Addr) (s : State) : StepOutcome := emitToken (.loadIndex addr) s

/-- `jump-offset(addr)` (R65): its token is appended and the cursor advances by 2 (R95). -/
def execJumpOffset (addr : Addr) (s : State) : StepOutcome := emitToken (.jumpOffset addr) s

/-- `random-mask(x, kk)` (R66): its token is appended and the cursor advances by 2 (R95). -/
def execRandomMask (x : RegIndex) (kk : Byte) (s : State) : StepOutcome := emitToken (.randomMask x kk) s

/-- `draw-sprite(x, y, n)` (R67): its token is appended and the cursor advances by 2 (R95). -/
def execDrawSprite (x : RegIndex) (y : RegIndex) (n : Count) (s : State) : StepOutcome := emitToken (.drawSprite x y n) s

end Sys2Proof.Machine
end

