-- ==== Sys2Proof/Machine/Dispatch.lean ====
section
/-! DEFINITION. What each instruction does, one arm per row of spec/opcode_table.json, in the table's order. -/

namespace Sys2Proof.Machine

def exec (i : Instr) (s : State) : Host.Outcome State Fault Refusal :=
  match i with
  | .clearScreen => Sys2Proof.Machine.execClearScreen s
  | .ret => Sys2Proof.Machine.execRet s
  | .jumpToAddress addr => Sys2Proof.Machine.execJumpToAddress addr s
  | .callAddress addr => Sys2Proof.Machine.execCallAddress addr s
  | .skipEqualByte x kk => Sys2Proof.Machine.execSkipEqualByte x kk s
  | .skipNotEqualByte x kk => Sys2Proof.Machine.execSkipNotEqualByte x kk s
  | .skipEqualRegister x y => Sys2Proof.Machine.execSkipEqualRegister x y s
  | .loadRegisterByte x kk => Sys2Proof.Machine.execLoadRegisterByte x kk s
  | .addByte x kk => Sys2Proof.Machine.execAddByte x kk s
  | .skipNotEqualRegister x y => Sys2Proof.Machine.execSkipNotEqualRegister x y s
  | .loadIndex addr => Sys2Proof.Machine.execLoadIndex addr s
  | .jumpOffset addr => Sys2Proof.Machine.execJumpOffset addr s
  | .randomMask x kk => Sys2Proof.Machine.execRandomMask x kk s
  | .drawSprite x y n => Sys2Proof.Machine.execDrawSprite x y n s
  | .copyRegister x y => Sys2Proof.Machine.execCopyRegister x y s
  | .orRegister x y => Sys2Proof.Machine.execOrRegister x y s
  | .andRegister x y => Sys2Proof.Machine.execAndRegister x y s
  | .xorRegister x y => Sys2Proof.Machine.execXorRegister x y s
  | .addRegister x y => Sys2Proof.Machine.execAddRegister x y s
  | .subtractRegister x y => Sys2Proof.Machine.execSubtractRegister x y s
  | .shiftRight x y => Sys2Proof.Machine.execShiftRight x y s
  | .subtractReversed x y => Sys2Proof.Machine.execSubtractReversed x y s
  | .shiftLeft x y => Sys2Proof.Machine.execShiftLeft x y s
  | .skipKeyPressed x => Sys2Proof.Machine.execSkipKeyPressed x s
  | .skipKeyNotPressed x => Sys2Proof.Machine.execSkipKeyNotPressed x s
  | .readDelayTimer x => Sys2Proof.Machine.execReadDelayTimer x s
  | .writeDelayTimer x => Sys2Proof.Machine.execWriteDelayTimer x s
  | .writeSoundTimer x => Sys2Proof.Machine.execWriteSoundTimer x s
  | .waitKey x => Sys2Proof.Machine.execWaitKey x s
  | .addIndex x => Sys2Proof.Machine.execAddIndex x s
  | .loadFontAddress x => Sys2Proof.Machine.execLoadFontAddress x s
  | .storeBcd x => Sys2Proof.Machine.execStoreBcd x s
  | .storeRegisters x => Sys2Proof.Machine.execStoreRegisters x s
  | .loadRegisters x => Sys2Proof.Machine.execLoadRegisters x s
  | .opaqueData raw => Sys2Proof.Machine.execOpaqueData raw s

end Sys2Proof.Machine
end

