-- ==== Sys2Proof/Machine/Step.lean ====
section
/-! DEFINITION. One step of the sequencer SEQ (46_sequencer.md R95, R96): the only transition of the only agent. -/

namespace Sys2Proof.Machine

/-- "If at least 2 bytes remain, read the next pair, form an InstructionWord, classify, append exactly one Token, advance
the cursor by 2; otherwise stop" (R95). -/
def step (s : State) : Host.Outcome State Fault Refusal :=
  match fetchWord s with
  | none => endOfSession s
  | some v => exec (classify v) s

/-- `s` with the table word stored where the next fetch reads: at the cursor, high byte first. It stands for the host's
load of a buffer (70_reset_and_hazards.md R114; log entry 3). -/
def State.withFetchWord (s : State) (nbits w : Nat) : State := placeWord s (tableWord nbits w)

end Sys2Proof.Machine
end

