-- ==== Sys2Proof/Machine/Operands.lean ====
section
/-! DEFINITION. The operands of a TOKEN (10_state.md R12, R13): which fields of the word they are copied from, and their
values. There is no other operand form: an operand is a field's value and nothing else (30_encoding.md R32), and the
block reads no register and no memory for one (R10, R15). -/

namespace Sys2Proof.Machine

/-- An operand, by kind: the five payload types of a TOKEN (R12, conflict C4). -/
inductive Operand where
  | register (i : RegIndex)
  | byte (b : Byte)
  | address (a : Addr)
  | count (n : Count)
  | raw (v : Word)
  deriving DecidableEq, Repr

/-- The operand that a field of a word is. -/
def operandOf (v : Word) : Field → Operand
  | .x => .register (fieldX v)
  | .y => .register (fieldY v)
  | .n => .count (fieldN v)
  | .kk => .byte (fieldKK v)
  | .addr => .address (fieldAddr v)
  | .raw => .raw v

/-- The operands a TOKEN holds, in R13's order. -/
def operands : Token → List Operand
  | .clearScreen => []
  | .ret => []
  | .jumpToAddress a => [.address a]
  | .callAddress a => [.address a]
  | .skipEqualByte x kk => [.register x, .byte kk]
  | .skipNotEqualByte x kk => [.register x, .byte kk]
  | .skipEqualRegister x y => [.register x, .register y]
  | .loadRegisterByte x kk => [.register x, .byte kk]
  | .addByte x kk => [.register x, .byte kk]
  | .skipNotEqualRegister x y => [.register x, .register y]
  | .loadIndex a => [.address a]
  | .jumpOffset a => [.address a]
  | .randomMask x kk => [.register x, .byte kk]
  | .drawSprite x y n => [.register x, .register y, .count n]
  | .copyRegister x y => [.register x, .register y]
  | .orRegister x y => [.register x, .register y]
  | .andRegister x y => [.register x, .register y]
  | .xorRegister x y => [.register x, .register y]
  | .addRegister x y => [.register x, .register y]
  | .subtractRegister x y => [.register x, .register y]
  | .shiftRight x y => [.register x, .register y]
  | .subtractReversed x y => [.register x, .register y]
  | .shiftLeft x y => [.register x, .register y]
  | .skipKeyPressed x => [.register x]
  | .skipKeyNotPressed x => [.register x]
  | .readDelayTimer x => [.register x]
  | .writeDelayTimer x => [.register x]
  | .writeSoundTimer x => [.register x]
  | .waitKey x => [.register x]
  | .addIndex x => [.register x]
  | .loadFontAddress x => [.register x]
  | .storeBcd x => [.register x]
  | .storeRegisters x => [.register x]
  | .loadRegisters x => [.register x]
  | .opaqueData raw => [.raw raw]

end Sys2Proof.Machine
end

