-- ==== Sys2Proof/Machine/Render.lean ====
section
/-! DEFINITION. What the source fixes of rendering (30_encoding.md R45 to R53). Rendering stands outside C8DEC (00_scope.md
R4, decision D26) and no step calls it; a line is a pure function of a TOKEN (R45). Everything the source leaves open is
an argument of the renderer (`RenderParams`, decision D14, log entry 14). -/

namespace Sys2Proof.Machine

/-- The shortest decimal numeral of a number (R46, R48; DESIGN CHOICE D14: no padding). -/
def decimal (n : Nat) : Text := Nat.toDigits 10 n

/-- One lowercase hexadecimal digit. -/
def hexDigit (n : Nat) : Char := Nat.digitChar n

/-- One hexadecimal digit in the case asked for. -/
def hexDigitCased (upper : Bool) (n : Nat) : Char :=
  if upper then (Nat.digitChar n).toUpper else Nat.digitChar n

/-- A register operand: "V" followed by the decimal index (R46). -/
def renderRegister (i : RegIndex) : Text := 'V' :: decimal i.toNat

/-- An immediate byte: "a 2-digit lowercase hexadecimal value prefixed '0x'" (R47). -/
def renderByte (b : Byte) : Text := ['0', 'x', hexDigit (b.toNat / 16), hexDigit (b.toNat % 16)]

/-- An address: "as decimal prefixed '$'" (R48). -/
def renderAddress (a : Addr) : Text := '$' :: decimal a.toNat

/-- The draw count: "a 2-digit hexadecimal value", so its first digit is 0; prefix and case are parameters (R49). -/
def renderCount (r : RenderParams) (n : Count) : Text :=
  (if r.drawCountZeroX then ['0', 'x'] else []) ++ ['0', hexDigitCased r.drawCountUpper n.toNat]

/-- The four hexadecimal digits of a word, most significant first. -/
def hexDigits4 (upper : Bool) (v : Word) : Text :=
  [hexDigitCased upper (family v).toNat, hexDigitCased upper (fieldX v).toNat, hexDigitCased upper (fieldY v).toNat,
    hexDigitCased upper (fieldN v).toNat]

/-- The digits without leading zeros, but at least one. -/
def stripZeros : Text → Text
  | [] => []
  | [c] => [c]
  | c :: d :: cs => if c = '0' then stripZeros (d :: cs) else c :: d :: cs

/-- Zeros on the left, up to a least number of digits. -/
def padZeros (least : Nat) (ds : Text) : Text := List.replicate (least - ds.length) '0' ++ ds

/-- The raw word of opaque data: "a hexadecimal word" in the format the parameters give (R50; DESIGN CHOICE on the form of
the number of digits, log entry 14). -/
def renderOpaque (f : OpaqueWordFormat) (v : Word) : Text :=
  f.lead ++ padZeros f.minDigits (stripZeros (hexDigits4 f.upperCase v))

/-- One operand (R46 to R50). -/
def renderOperand (r : RenderParams) : Operand → Text
  | .register i => renderRegister i
  | .byte b => renderByte b
  | .address a => renderAddress a
  | .count n => renderCount r n
  | .raw v => renderOpaque r.opaqueWord v

/-- Texts with a separator between neighbours. -/
def joinWith (sep : Text) : List Text → Text
  | [] => []
  | [t] => t
  | t :: u :: ts => t ++ sep ++ joinWith sep (u :: ts)

/-- The one line of a TOKEN (R45): its mnemonic text, then its operands in the order, and with the separators, that the
parameters give (R51). -/
def renderLine (r : RenderParams) (t : Token) : Text :=
  let ops := (r.operandOrder t.code).filterMap (fun k => ((operands t)[k]?).map (renderOperand r))
  r.mnemonicText t.code ++ (if ops.isEmpty then [] else r.mnemonicSeparator ++ joinWith r.operandSeparator ops) ++
    r.lineTerminator

/-- The rendered output: "one rendered text line per Token, in input order" (R45). -/
def renderLines (r : RenderParams) (ts : List Token) : List Text := ts.map (renderLine r)

end Sys2Proof.Machine
end

