-- ==== Sys2Proof/Machine/Session.lean ====
section
/-! DEFINITION. A session from the host's side (10_state.md R17, 70_reset_and_hazards.md R119), and what a whole session
computes (46_sequencer.md R98). -/

namespace Sys2Proof.Machine

/-- The start of a session over the host's buffer: reset, with `buf` and `len` as the host supplied them (R16, R113). -/
def State.start (bs : List Byte) : State :=
  { State.reset with len := bs.length, buf := Memory.ofBytes bs }

/-- The buffer as the sequence `buf[0] ... buf[len-1]` (R8). -/
def State.bytes (s : State) : List Byte := (List.range s.len).map (Memory.read s.buf)

/-- The bytes from the cursor on. -/
def State.remaining (s : State) : List Byte := s.bytes.drop s.cursor

/-- Word number `k`, which "occupies offsets `2k` and `2k+1`" (20_memory.md R20). -/
def State.wordAt (s : State) (k : Nat) : Word :=
  fx (Memory.read s.buf (2 * k)) (Memory.read s.buf (2 * k + 1))

/-- `decode(buf)` for the buffer of a state, by R98's formula. -/
def State.decoded (s : State) : List Token :=
  (List.range (s.len / 2)).map (fun k => classify (s.wordAt k))

/-- `decode(buf) = [ classify(buf[2k] * 256 + buf[2k+1]) for k = 0, ..., N-1 ]` with `N = floor(len / 2)` (R98), on a plain
byte sequence. Every index is below the length, so `getD` never answers its default. -/
def decodeSession (bs : List Byte) : List Token :=
  (List.range (bs.length / 2)).map (fun k => classify (fx (bs.getD (2 * k) 0) (bs.getD (2 * k + 1) 0)))

/-! ## The step relation with the inputs as parameters -/

/-- What the host supplies to a session: `buf` and `len`, "parameters of the step relation, not fields of the state" (R8). -/
structure SessionInput where
  len : Nat
  buf : Memory
  deriving DecidableEq, Repr

/-- "Exactly two pieces of mutable state" (R7). -/
structure DecodeState where
  cursor : Nat
  out : List Token
  deriving DecidableEq, Repr

/-- R95 with its own signature, "step(cursor, out) with parameters (buf, len)": the next mutable state, or none where the
precondition does not hold and "there is no step" (R96). The machine's `step`, which takes nothing but a state, is this one
with the inputs carried along (log entry 1). -/
def decodeStep (i : SessionInput) (m : DecodeState) : Option DecodeState :=
  if i.len - m.cursor ≥ 2 then
    some
      { cursor := m.cursor + 2
        out := m.out ++ [classify (fx (Memory.read i.buf m.cursor) (Memory.read i.buf (m.cursor + 1)))] }
  else none

/-- The session inputs that a state carries. -/
def State.input (s : State) : SessionInput := { len := s.len, buf := s.buf }

/-- The mutable state that a state carries. -/
def State.decodeState (s : State) : DecodeState := { cursor := s.cursor, out := s.out }

/-- A state is its inputs and its mutable state. -/
def SessionInput.withState (i : SessionInput) (m : DecodeState) : State :=
  { len := i.len, buf := i.buf, cursor := m.cursor, out := m.out }

/-! ## Phases -/

/-- The phases of a session that exists (R17). Before its start there is no session, and so no `State`. -/
inductive Phase where
  | running
  | ended
  deriving DecidableEq, Repr

/-- The phase of a session: a function of `cursor` and `len`, not a stored bit (R15, R96, R97). -/
def State.phase (s : State) : Phase := if s.ended then .ended else .running

/-- What the host gets when it asks for the output: the sequence, once the session has ended; nothing while it runs (R117,
decision D17). -/
def State.handOver (s : State) : Option (List Token) :=
  match s.phase with
  | .running => none
  | .ended => some s.out

end Sys2Proof.Machine
end

