-- ==== Sys2Proof/Safety.lean ====
section
/-! DEFINITION. What counts as a good session: the invariants of 10_state.md R9 and R11 and the canonical form of the
buffer, and which offsets a run reads (20_memory.md R22). -/

namespace Sys2Proof.Machine

/-- `k` steps of the machine behind the host's interface. -/
def run (k : Nat) (s : State) : StepOutcome := Host.Core.run Sys2Proof.core k s

/-- R95's effect written out: the state after the token `t` is appended and the cursor advanced by 2. -/
def State.withToken (s : State) (t : Token) : State := { s with out := s.out ++ [t], cursor := s.cursor + 2 }

/-- The invariant of a session. -/
structure SessionInv (s : State) : Prop where
  /-- The buffer's cells are in their canonical form. -/
  buffer_canonical : Memory.wf s.buf = true
  /-- No cell stands outside the buffer. -/
  buffer_within : ∀ c ∈ s.buf, c.1 < s.len
  /-- R9 invariant (b), first half: `cursor <= len`. -/
  cursor_le_len : s.cursor ≤ s.len
  /-- R9 invariant (b), second half: `cursor = 2 * |out|`; invariant (a), that the cursor is even, follows. -/
  cursor_eq_twice_out : s.cursor = 2 * s.out.length
  /-- R11: element `k` of the output is the classification of the word at offsets `2k` and `2k + 1`. -/
  out_is_prefix : s.out = s.decoded.take s.out.length

/-- The cursor as a `W`-bit register of a hardware realisation holds it (R9, *Width*; 93_implementation_defined.md U10). -/
def cursorRegister (W : Nat) (s : State) : BitVec W := BitVec.ofNat W s.cursor

/-- The stop test of R96 as a realisation with `W`-bit registers for `cursor` and `len` computes it. -/
def endedRegister (W : Nat) (s : State) : Bool :=
  decide ((BitVec.ofNat W s.len - cursorRegister W s).toNat < 2)

/-- The offsets that the next step reads, in order. -/
def readsOfStep (s : State) : List Nat :=
  match fetchOffsets s with
  | none => []
  | some (hi, lo) => [hi, lo]

/-- The offsets that the next `k` steps read, in order. -/
def readsOfRun : Nat → State → List Nat
  | 0, _ => []
  | k + 1, s =>
    match step s with
    | .next s' => readsOfStep s ++ readsOfRun k s'
    | .fault _ => readsOfStep s
    | .refused _ => readsOfStep s

end Sys2Proof.Machine
end

