-- ==== Sys2Proof/Certificates/Slice0/Obligations.lean ====
section
/-! DEFINITION. The statements for the provers, each from a numbered rule of spec/ where its docstring says so. A statement
about the dispatch table that holds for every admissible choice of the open parameters (30_encoding.md R41, R36) says
`∀ p, p.Admissible → …`; one that names a default selector or the positional pairing says so (log entries 5 and 6). -/

open Sys2Proof Sys2Proof.Machine

/-! ## FX -/

/-- R29: `raw = hi * 256 + lo = {hi, lo}`, between 0 and 65535; every pair of bytes is a word, and every 16-bit value is the
word of exactly one pair, its bits 15:8 and 7:0. -/
def Obligations.WordIsHighByteTimes256PlusLowByte : Prop :=
  (∀ hi lo : Byte, (fx hi lo).toNat = hi.toNat * 256 + lo.toNat ∧ (fx hi lo).toNat ≤ 65535 ∧
    highByte (fx hi lo) = hi ∧ lowByte (fx hi lo) = lo) ∧
  (∀ v : Word, ∃! q : Byte × Byte, fx q.1 q.2 = v) ∧
  (∀ v : Word, fx (highByte v) (lowByte v) = v)

/-- R31: the six accessors by their shift-and-mask formulas, the same in terms of the two bytes, and the worked example. The
family's formula and the formulas by bytes are marked there as the spec's own inference. -/
def Obligations.FieldsAreShiftsAndMasks : Prop :=
  (∀ v : Word,
    (family v).toNat = (v.toNat >>> 12) &&& 0xF ∧
    (fieldX v).toNat = (v.toNat >>> 8) &&& 0xF ∧
    (fieldY v).toNat = (v.toNat >>> 4) &&& 0xF ∧
    (fieldN v).toNat = v.toNat &&& 0xF ∧
    (fieldKK v).toNat = v.toNat &&& 0xFF ∧
    (fieldAddr v).toNat = v.toNat &&& 0xFFF) ∧
  (∀ hi lo : Byte,
    (family (fx hi lo)).toNat = hi.toNat >>> 4 ∧
    (fieldX (fx hi lo)).toNat = hi.toNat &&& 0xF ∧
    (fieldY (fx hi lo)).toNat = lo.toNat >>> 4 ∧
    (fieldN (fx hi lo)).toNat = lo.toNat &&& 0xF ∧
    fieldKK (fx hi lo) = lo ∧
    (fieldAddr (fx hi lo)).toNat = (hi.toNat &&& 0xF) * 256 + lo.toNat) ∧
  (family 0x6A3F = 6 ∧ fieldX 0x6A3F = 10 ∧ fieldY 0x6A3F = 3 ∧ fieldN 0x6A3F = 15 ∧ fieldKK 0x6A3F = 63 ∧
    fieldAddr 0x6A3F = 2623)

/-- R32, first bullet: the fields overlap, and the word is its family and its addr. -/
def Obligations.OverlappingFieldsComposeTheWord : Prop :=
  ∀ v : Word,
    (fieldKK v).toNat = (fieldY v).toNat * 16 + (fieldN v).toNat ∧
    (fieldAddr v).toNat = (fieldX v).toNat * 256 + (fieldKK v).toNat ∧
    (fieldAddr v).toNat = (fieldX v).toNat * 256 + (fieldY v).toNat * 16 + (fieldN v).toNat ∧
    v.toNat = (family v).toNat * 4096 + (fieldAddr v).toNat

/-! ## DT -/

/-- R54, R55: clear-screen is selected by the word 0x00E0 and no other, return by 0x00EE and no other, and every other word
of family 0 is opaque data with the whole word, whatever the parameters. -/
def Obligations.FamilyZeroComparesTheWholeWord : Prop :=
  ∀ (p : Params) (v : Word),
    (classifyWith p v = .clearScreen ↔ v = 0x00E0) ∧
    (classifyWith p v = .ret ↔ v = 0x00EE) ∧
    (family v = 0x0 → v ≠ 0x00E0 → v ≠ 0x00EE → classifyWith p v = .opaqueData v)

/-- R56, R61: the two anchored families, for every admissible choice of the parameters, and their corner cases. -/
def Obligations.AnchoredFamiliesSelectJumpAndLoadByte : Prop :=
  ∀ p : Params, p.Admissible → ∀ v : Word,
    (∀ a, classifyWith p v = .jumpToAddress a ↔ family v = 0x1 ∧ a = fieldAddr v) ∧
    (∀ x kk, classifyWith p v = .loadRegisterByte x kk ↔ family v = 0x6 ∧ x = fieldX v ∧ kk = fieldKK v) ∧
    classifyWith p 0x1000 = .jumpToAddress 0 ∧ classifyWith p 0x1FFF = .jumpToAddress 4095 ∧
    classifyWith p 0x1ABC = .jumpToAddress 0xABC ∧
    classifyWith p 0x6000 = .loadRegisterByte 0 0 ∧ classifyWith p 0x6FFF = .loadRegisterByte 15 255 ∧
    classifyWith p 0x6A3F = .loadRegisterByte 10 0x3F

/-- R57 to R60, R62 to R67 with the positional pairing of R36. The model's choices: the pairing, which is the spec's own
reading (decision D6, log entry 6); the operand lists, random-mask's x above all (decision D8, log entry 7); the ignored
low nibble of families 5 and 9 (decision D12, log entry 8). -/
def Obligations.PositionallyPairedFamiliesSelectTheirInstruction : Prop :=
  ∀ v : Word,
    (∀ a, classify v = .callAddress a ↔ family v = 0x2 ∧ a = fieldAddr v) ∧
    (∀ x kk, classify v = .skipEqualByte x kk ↔ family v = 0x3 ∧ x = fieldX v ∧ kk = fieldKK v) ∧
    (∀ x kk, classify v = .skipNotEqualByte x kk ↔ family v = 0x4 ∧ x = fieldX v ∧ kk = fieldKK v) ∧
    (∀ x y, classify v = .skipEqualRegister x y ↔ family v = 0x5 ∧ x = fieldX v ∧ y = fieldY v) ∧
    (∀ x kk, classify v = .addByte x kk ↔ family v = 0x7 ∧ x = fieldX v ∧ kk = fieldKK v) ∧
    (∀ x y, classify v = .skipNotEqualRegister x y ↔ family v = 0x9 ∧ x = fieldX v ∧ y = fieldY v) ∧
    (∀ a, classify v = .loadIndex a ↔ family v = 0xA ∧ a = fieldAddr v) ∧
    (∀ a, classify v = .jumpOffset a ↔ family v = 0xB ∧ a = fieldAddr v) ∧
    (∀ x kk, classify v = .randomMask x kk ↔ family v = 0xC ∧ x = fieldX v ∧ kk = fieldKK v) ∧
    (∀ x y n, classify v = .drawSprite x y n ↔ family v = 0xD ∧ x = fieldX v ∧ y = fieldY v ∧ n = fieldN v)

/-- R36, R42: in a single-shape family the family alone selects the variant, two such families select different
variants, and no word of one is opaque data; for every admissible choice of the parameters. Variants are compared by
their numbers, which differ (decision D4, log entry 9). -/
def Obligations.SingleShapeFamiliesSelectByFamilyAlone : Prop :=
  ∀ p : Params, p.Admissible → ∀ v w : Word,
    (family v).toNat ∉ [0x0, 0x8, 0xE, 0xF] → (family w).toNat ∉ [0x0, 0x8, 0xE, 0xF] →
    (classifyWith p v).isOpaque = false ∧
    ((classifyWith p v).code = (classifyWith p w).code ↔ family v = family w)

/-- Family 8 (R68 to R76, R38, R90), for every admissible choice of the seven selectors without a number in the source:
the low nibble 0x0 selects copy-register and 0x5 subtract-register, with the source's examples (R68, R73); the seven
select theirs whatever their numbers are, and the rest is opaque data. That the two shifts carry y, and that x and y
stand in that order in all nine, is the model's choice (decision D8, log entry 7). -/
def Obligations.FamilyEightSelectsByLowNibble : Prop :=
  ∀ p : Params, p.Admissible → ∀ v : Word,
    (∀ x y, classifyWith p v = .copyRegister x y ↔ family v = 0x8 ∧ fieldN v = 0x0 ∧ x = fieldX v ∧ y = fieldY v) ∧
    (∀ x y, classifyWith p v = .orRegister x y ↔
      family v = 0x8 ∧ fieldN v = p.sel8Or ∧ x = fieldX v ∧ y = fieldY v) ∧
    (∀ x y, classifyWith p v = .andRegister x y ↔
      family v = 0x8 ∧ fieldN v = p.sel8And ∧ x = fieldX v ∧ y = fieldY v) ∧
    (∀ x y, classifyWith p v = .xorRegister x y ↔
      family v = 0x8 ∧ fieldN v = p.sel8Xor ∧ x = fieldX v ∧ y = fieldY v) ∧
    (∀ x y, classifyWith p v = .addRegister x y ↔
      family v = 0x8 ∧ fieldN v = p.sel8Add ∧ x = fieldX v ∧ y = fieldY v) ∧
    (∀ x y, classifyWith p v = .subtractRegister x y ↔
      family v = 0x8 ∧ fieldN v = 0x5 ∧ x = fieldX v ∧ y = fieldY v) ∧
    (∀ x y, classifyWith p v = .shiftRight x y ↔
      family v = 0x8 ∧ fieldN v = p.sel8Shr ∧ x = fieldX v ∧ y = fieldY v) ∧
    (∀ x y, classifyWith p v = .subtractReversed x y ↔
      family v = 0x8 ∧ fieldN v = p.sel8Subn ∧ x = fieldX v ∧ y = fieldY v) ∧
    (∀ x y, classifyWith p v = .shiftLeft x y ↔
      family v = 0x8 ∧ fieldN v = p.sel8Shl ∧ x = fieldX v ∧ y = fieldY v) ∧
    (family v = 0x8 → fieldN v ∉ p.selectors8 → classifyWith p v = .opaqueData v) ∧
    classifyWith p 0x8000 = .copyRegister 0 0 ∧ classifyWith p 0x8FF0 = .copyRegister 15 15 ∧
    classifyWith p 0x8120 = .copyRegister 1 2 ∧
    classifyWith p 0x8005 = .subtractRegister 0 0 ∧ classifyWith p 0x8FF5 = .subtractRegister 15 15 ∧
    classifyWith p 0x8125 = .subtractRegister 1 2

/-- R77, R78, R39, R91: family E by its whole low byte, for every admissible choice of its two selectors, whose numbers
are not in the source. That both tokens carry exactly x is the model's choice (decision D8, log entry 7). -/
def Obligations.FamilyESelectsByLowByte : Prop :=
  ∀ p : Params, p.Admissible → ∀ v : Word,
    (∀ x, classifyWith p v = .skipKeyPressed x ↔ family v = 0xE ∧ fieldKK v = p.selESkp ∧ x = fieldX v) ∧
    (∀ x, classifyWith p v = .skipKeyNotPressed x ↔ family v = 0xE ∧ fieldKK v = p.selESknp ∧ x = fieldX v) ∧
    (family v = 0xE → fieldKK v ≠ p.selESkp → fieldKK v ≠ p.selESknp → classifyWith p v = .opaqueData v)

/-- R79 to R87, R40, R92: family F by its whole low byte, for every admissible choice of its selectors;
load-font-address by 0x29 with the source's example and its corner cases at x = 0 and x = 15. That the eight tokens
other than load-font-address carry exactly x is the model's choice (decision D8, log entry 7). -/
def Obligations.FamilyFSelectsByLowByte : Prop :=
  ∀ p : Params, p.Admissible → ∀ v : Word,
    (∀ x, classifyWith p v = .readDelayTimer x ↔ family v = 0xF ∧ fieldKK v = p.selFRdt ∧ x = fieldX v) ∧
    (∀ x, classifyWith p v = .writeDelayTimer x ↔ family v = 0xF ∧ fieldKK v = p.selFWdt ∧ x = fieldX v) ∧
    (∀ x, classifyWith p v = .writeSoundTimer x ↔ family v = 0xF ∧ fieldKK v = p.selFWst ∧ x = fieldX v) ∧
    (∀ x, classifyWith p v = .waitKey x ↔ family v = 0xF ∧ fieldKK v = p.selFKey ∧ x = fieldX v) ∧
    (∀ x, classifyWith p v = .addIndex x ↔ family v = 0xF ∧ fieldKK v = p.selFAddi ∧ x = fieldX v) ∧
    (∀ x, classifyWith p v = .loadFontAddress x ↔ family v = 0xF ∧ fieldKK v = 0x29 ∧ x = fieldX v) ∧
    (∀ x, classifyWith p v = .storeBcd x ↔ family v = 0xF ∧ fieldKK v = p.selFBcd ∧ x = fieldX v) ∧
    (∀ x, classifyWith p v = .storeRegisters x ↔ family v = 0xF ∧ fieldKK v = p.selFStore ∧ x = fieldX v) ∧
    (∀ x, classifyWith p v = .loadRegisters x ↔ family v = 0xF ∧ fieldKK v = p.selFLoad ∧ x = fieldX v) ∧
    (family v = 0xF → fieldKK v ∉ p.selectorsF → classifyWith p v = .opaqueData v) ∧
    classifyWith p 0xF029 = .loadFontAddress 0 ∧ classifyWith p 0xFF29 = .loadFontAddress 15 ∧
    classifyWith p 0xF129 = .loadFontAddress 1

/-- R41's default selectors, which the spec takes from general knowledge: the model's choice (decision D5, log entry 5).
So are the operands, the y of the two shifts and the x of families E and F (decision D8, log entry 7). The low bytes and
low nibbles not listed are those of the fallback. -/
def Obligations.DefaultSelectorsSelectTheUsualInstructions : Prop :=
  ∀ x y : RegIndex,
    classify (wordXYN 0x8 x y 0x1) = .orRegister x y ∧ classify (wordXYN 0x8 x y 0x2) = .andRegister x y ∧
    classify (wordXYN 0x8 x y 0x3) = .xorRegister x y ∧ classify (wordXYN 0x8 x y 0x4) = .addRegister x y ∧
    classify (wordXYN 0x8 x y 0x6) = .shiftRight x y ∧ classify (wordXYN 0x8 x y 0x7) = .subtractReversed x y ∧
    classify (wordXYN 0x8 x y 0xE) = .shiftLeft x y ∧
    classify (wordXK 0xE x 0x9E) = .skipKeyPressed x ∧ classify (wordXK 0xE x 0xA1) = .skipKeyNotPressed x ∧
    classify (wordXK 0xF x 0x07) = .readDelayTimer x ∧ classify (wordXK 0xF x 0x15) = .writeDelayTimer x ∧
    classify (wordXK 0xF x 0x18) = .writeSoundTimer x ∧ classify (wordXK 0xF x 0x0A) = .waitKey x ∧
    classify (wordXK 0xF x 0x1E) = .addIndex x ∧ classify (wordXK 0xF x 0x33) = .storeBcd x ∧
    classify (wordXK 0xF x 0x55) = .storeRegisters x ∧ classify (wordXK 0xF x 0x65) = .loadRegisters x ∧
    (∀ n ∈ [0x8, 0x9, 0xA, 0xB, 0xC, 0xD, 0xF], classify (wordXYN 0x8 x y n) = .opaqueData (wordXYN 0x8 x y n)) ∧
    (∀ k, k ∉ [0x9E, 0xA1] → classify (wordXK 0xE x k) = .opaqueData (wordXK 0xE x k)) ∧
    (∀ k, k ∉ [0x07, 0x0A, 0x15, 0x18, 0x1E, 0x29, 0x33, 0x55, 0x65] →
      classify (wordXK 0xF x k) = .opaqueData (wordXK 0xF x k))

/-- R88, with R89 to R92: a word falls to opaque data exactly when no instruction pattern takes it, the token then carries
the whole word and nothing else, and this arises in families 0x0, 0x8, 0xE and 0xF only. -/
def Obligations.FallbackTakesExactlyTheUnmatchedWords : Prop :=
  ∀ (p : Params) (v : Word),
    ((classifyWith p v).isOpaque = true ↔ ∀ r ∈ opcodeRows p, r.takes v = false) ∧
    ((classifyWith p v).isOpaque = true ↔ IsOpaqueWord p v = true) ∧
    (∀ raw, classifyWith p v = .opaqueData raw → raw = v) ∧
    ((classifyWith p v).isOpaque = true → (family v).toNat ∈ [0x0, 0x8, 0xE, 0xF])

/-- R42: how many words of each family are opaque data and how many are instructions, 13902 and 51634 in all, for every
admissible choice of the parameters; and no word is illegal (each has a token of one of the 35 variants, numbered 0 to
34: the model's choice, decision D4, log entry 9). -/
def Obligations.OpaqueWordCountsOfEachFamily : Prop :=
  ∀ p : Params, p.Admissible →
    (∀ f : Nibble,
      (Finset.univ.filter (fun v : Word => family v = f ∧ (classifyWith p v).isOpaque = true)).card =
        (if f = 0x0 then 4094 else if f = 0x8 then 1792 else if f = 0xE then 4064 else if f = 0xF then 3952 else 0)) ∧
    (∀ f : Nibble,
      (Finset.univ.filter (fun v : Word => family v = f ∧ (classifyWith p v).isOpaque = false)).card =
        (if f = 0x0 then 2 else if f = 0x8 then 2304 else if f = 0xE then 32 else if f = 0xF then 144 else 4096)) ∧
    (Finset.univ.filter (fun v : Word => (classifyWith p v).isOpaque = true)).card = 13902 ∧
    (Finset.univ.filter (fun v : Word => (classifyWith p v).isOpaque = false)).card = 51634 ∧
    (∀ v : Word, (classifyWith p v).code ≤ 34)

/-- 95_test_vectors.md 2.7: how many words select each variant, for every admissible choice of the parameters. The
variants are named by their numbers in the order of R13, which are the model's choice (decision D4, log entry 9). -/
def Obligations.WordCountsOfEachVariant : Prop :=
  ∀ p : Params, p.Admissible → ∀ c : Nat,
    (Finset.univ.filter (fun v : Word => (classifyWith p v).code = c)).card =
      (if c ≤ 1 then 1 else if c ≤ 13 then 4096 else if c ≤ 22 then 256 else if c ≤ 33 then 16
        else if c = 34 then 13902 else 0)

/-- R44: the 34 instruction patterns are pairwise disjoint, so a word is taken by one row or by none, and by none exactly
when it is opaque data; for every admissible choice of the parameters. -/
def Obligations.InstructionPatternsAreDisjoint : Prop :=
  ∀ p : Params, p.Admissible →
    (opcodeRows p).length = 34 ∧
    (opcodeRows p).Pairwise (fun r r' => ∀ v, ¬ (r.takes v = true ∧ r'.takes v = true)) ∧
    (∀ v, ((opcodeRows p).filter (fun r => r.takes v)).length = if (classifyWith p v).isOpaque then 0 else 1)

/-- 30_encoding.md section 4: opcode_table.json "writes the same table". The row a word selects has the variant of its
token, and the token's operands, at most three, are the fields the row lists, in its order, at the word's own bits;
whatever the parameters. The operand lists (decision D8, log entry 7) and the numbers that name the variants (decision
D4, log entry 9) are the model's choices. -/
def Obligations.DispatchAgreesWithTheOpcodeTable : Prop :=
  ∀ (p : Params) (v : Word),
    (classifyWith p v).code = (rowOf p v).code ∧
    operands (classifyWith p v) = (rowOf p v).operands.map (operandOf v) ∧
    (operands (classifyWith p v)).length ≤ 3

/-- R43 with the positional pairing: in families 5 and 9 the low nibble changes nothing, and there are no other bits the
decoder does not look at or keep: two different words with one token are of family 5 or 9 and differ in the low nibble
only. The model's choices: the pairing (decision D6, log entry 6); the ignored nibble (decision D12, log entry 8); the
operand lists, by which the shifts keep y and random-mask keeps x, and token equality by operands (decision D8, log
entry 7). -/
def Obligations.OnlyTheLowNibbleOfFamiliesFiveAndNineIsIgnored : Prop :=
  (∀ (x y : RegIndex) (n : Nibble),
    classify (wordXYN 0x5 x y n) = .skipEqualRegister x y ∧
    classify (wordXYN 0x9 x y n) = .skipNotEqualRegister x y) ∧
  (∀ v w : Word, classify v = classify w → v ≠ w →
    (family v = 0x5 ∨ family v = 0x9) ∧ family w = family v ∧ fieldX w = fieldX v ∧ fieldY w = fieldY v)

/-- 95_test_vectors.md 1.2: the source's ten decode examples hold for every admissible choice of the parameters (they are
what the source fixes). -/
def Obligations.SourceExamplesHoldForEveryAdmissibleChoice : Prop :=
  ∀ p : Params, p.Admissible →
    classifyWith p 0x00E0 = .clearScreen ∧ classifyWith p 0x00EE = .ret ∧
    classifyWith p 0x0123 = .opaqueData 0x0123 ∧ classifyWith p 0x1ABC = .jumpToAddress 0xABC ∧
    classifyWith p 0x6A3F = .loadRegisterByte 10 0x3F ∧ classifyWith p 0x8120 = .copyRegister 1 2 ∧
    classifyWith p 0x8125 = .subtractRegister 1 2 ∧ classifyWith p 0x812F = .opaqueData 0x812F ∧
    classifyWith p 0xF129 = .loadFontAddress 1 ∧ classifyWith p 0xF1FF = .opaqueData 0xF1FF

/-- Seven words written out from the encodings of R54, R56, R61, R68, R77, R84 and R90, at least one from each of the six
family files 40 to 45 of the spec (not one of each top nibble), decode to the instructions they stand for; R77's
selector is a default (log entry 5). That its token carries x is the choice of log entry 7. -/
def Obligations.WrittenOutWordsDecode : Prop :=
  decodeTableWord 16 0b0000000011100000 = some .clearScreen ∧
  decodeTableWord 16 0b0001101010111100 = some (.jumpToAddress 0b101010111100) ∧
  decodeTableWord 16 0b0110101000111111 = some (.loadRegisterByte 0b1010 0b00111111) ∧
  decodeTableWord 16 0b1000000100100000 = some (.copyRegister 0b0001 0b0010) ∧
  decodeTableWord 16 0b1110000110011110 = some (.skipKeyPressed 0b0001) ∧
  decodeTableWord 16 0b1111000100101001 = some (.loadFontAddress 0b0001) ∧
  decodeTableWord 16 0b1000000100101111 = some (.opaqueData 0b1000000100101111)

/-- Decoding the word of a well-formed instruction gives it back, with every operand at every value, for every
admissible choice of the parameters. The encoder (log entry 15) and the operand lists no example shows (decision D8, log
entry 7) are the model's choices. -/
def Obligations.EncodedInstructionDecodesBack : Prop :=
  (∀ p : Params, p.Admissible → ∀ i : Instr, WellFormed p i = true → classifyWith p (encodeWith p i) = i) ∧
  (∀ (i : Instr) (rest : List Byte), WellFormed defaultParams i = true →
    decodeBytes (wordBytes (encode i) ++ rest) = .instr i rest)

/-- The other direction: a word is its token encoded, but for the low nibble that the two shapes XY_ do not keep (R43),
where the encoder writes 0; and every token the table yields is well formed. The model's choices: that the nibble is
ignored (decision D12, log entry 8); that a token keeps every other bit, the shifts y and random-mask x among them
(decision D8, log entry 7); the encoder (log entry 15); the numbers that name the two variants (decision D4, log entry
9). -/
def Obligations.ClassifiedWordEncodesBack : Prop :=
  ∀ p : Params, p.Admissible → ∀ v : Word,
    WellFormed p (classifyWith p v) = true ∧
    encodeWith p (classifyWith p v) =
      (if (classifyWith p v).code = 6 ∨ (classifyWith p v).code = 9 then v &&& 0xFFF0 else v)

/-- R33, R97: FX's ports are the six fields, and the token is what a consumer reads from DT's ports: the variant's
number and that variant's operand fields. The model's choices: the ports and the numbers, which are the spec's framing
(decisions D2, D4, log entry 9), and the operand lists no example shows (decision D8, log entry 7). -/
def Obligations.PortsCarryTheToken : Prop :=
  (∀ hi lo : Byte, fxPorts hi lo =
    { raw := fx hi lo, family := family (fx hi lo), x := fieldX (fx hi lo), y := fieldY (fx hi lo),
      n := fieldN (fx hi lo), kk := fieldKK (fx hi lo), addr := fieldAddr (fx hi lo) }) ∧
  (∀ (p : Params) (v : Word), (dtPorts p v).token = some (classifyWith p v))

/-! ## Every instruction completes -/

/-- R54, R55 with R95: from every state, the two instructions of family 0 append their token and advance the cursor. -/
def Obligations.FamilyZeroInstructionsComplete : Prop :=
  ∀ s : State,
    exec .clearScreen s = .next { s with out := s.out ++ [.clearScreen], cursor := s.cursor + 2 } ∧
    exec .ret s = .next { s with out := s.out ++ [.ret], cursor := s.cursor + 2 }

/-- R56 to R67 with R95: from every state and for all operands, the instructions of the twelve single-shape families
append their token and advance the cursor, jump, call and skips as any other (R101). Which operands a token has, where
no example shows it, is the model's choice (decision D8, log entry 7). -/
def Obligations.SingleShapeInstructionsComplete : Prop :=
  ∀ (s : State) (x y : RegIndex) (n : Count) (kk : Byte) (a : Addr),
    exec (.jumpToAddress a) s = .next (s.withToken (.jumpToAddress a)) ∧
    exec (.callAddress a) s = .next (s.withToken (.callAddress a)) ∧
    exec (.skipEqualByte x kk) s = .next (s.withToken (.skipEqualByte x kk)) ∧
    exec (.skipNotEqualByte x kk) s = .next (s.withToken (.skipNotEqualByte x kk)) ∧
    exec (.skipEqualRegister x y) s = .next (s.withToken (.skipEqualRegister x y)) ∧
    exec (.loadRegisterByte x kk) s = .next (s.withToken (.loadRegisterByte x kk)) ∧
    exec (.addByte x kk) s = .next (s.withToken (.addByte x kk)) ∧
    exec (.skipNotEqualRegister x y) s = .next (s.withToken (.skipNotEqualRegister x y)) ∧
    exec (.loadIndex a) s = .next (s.withToken (.loadIndex a)) ∧
    exec (.jumpOffset a) s = .next (s.withToken (.jumpOffset a)) ∧
    exec (.randomMask x kk) s = .next (s.withToken (.randomMask x kk)) ∧
    exec (.drawSprite x y n) s = .next (s.withToken (.drawSprite x y n))

/-- R68 to R76 with R95: from every state and for all operands, x and y equal or not, the nine instructions of family 8
append their token and advance the cursor. Which operands a token has, where no example shows it, is the model's choice
(decision D8, log entry 7). -/
def Obligations.FamilyEightInstructionsComplete : Prop :=
  ∀ (s : State) (x y : RegIndex),
    exec (.copyRegister x y) s = .next (s.withToken (.copyRegister x y)) ∧
    exec (.orRegister x y) s = .next (s.withToken (.orRegister x y)) ∧
    exec (.andRegister x y) s = .next (s.withToken (.andRegister x y)) ∧
    exec (.xorRegister x y) s = .next (s.withToken (.xorRegister x y)) ∧
    exec (.addRegister x y) s = .next (s.withToken (.addRegister x y)) ∧
    exec (.subtractRegister x y) s = .next (s.withToken (.subtractRegister x y)) ∧
    exec (.shiftRight x y) s = .next (s.withToken (.shiftRight x y)) ∧
    exec (.subtractReversed x y) s = .next (s.withToken (.subtractReversed x y)) ∧
    exec (.shiftLeft x y) s = .next (s.withToken (.shiftLeft x y))

/-- R77 to R87 with R95: from every state and for every register index, the instructions of families E and F append
their token and advance the cursor; wait-key waits for nothing (R82). Which operands a token has, where no example shows
it, is the model's choice (decision D8, log entry 7). -/
def Obligations.FamilyEAndFInstructionsComplete : Prop :=
  ∀ (s : State) (x : RegIndex),
    exec (.skipKeyPressed x) s = .next (s.withToken (.skipKeyPressed x)) ∧
    exec (.skipKeyNotPressed x) s = .next (s.withToken (.skipKeyNotPressed x)) ∧
    exec (.readDelayTimer x) s = .next (s.withToken (.readDelayTimer x)) ∧
    exec (.writeDelayTimer x) s = .next (s.withToken (.writeDelayTimer x)) ∧
    exec (.writeSoundTimer x) s = .next (s.withToken (.writeSoundTimer x)) ∧
    exec (.waitKey x) s = .next (s.withToken (.waitKey x)) ∧
    exec (.addIndex x) s = .next (s.withToken (.addIndex x)) ∧
    exec (.loadFontAddress x) s = .next (s.withToken (.loadFontAddress x)) ∧
    exec (.storeBcd x) s = .next (s.withToken (.storeBcd x)) ∧
    exec (.storeRegisters x) s = .next (s.withToken (.storeRegisters x)) ∧
    exec (.loadRegisters x) s = .next (s.withToken (.loadRegisters x))

/-- R88 with R95: from every state and for every raw word, opaque data is appended like any token, "and the session goes on"
(R106: the sequencer does exactly what it does after any token). -/
def Obligations.OpaqueDataCompletes : Prop :=
  ∀ (s : State) (raw : Word), exec (.opaqueData raw) s = .next (s.withToken (.opaqueData raw))

/-- The frame of all 35 instructions: when `exec` answers a next state, the buffer's length and every byte of it are as
before, what was in the output is still there with one token after it, and the cursor is 2 further (R9, R11, R95, R101). -/
def Obligations.EveryInstructionLeavesTheRestUnchanged : Prop :=
  ∀ (i : Instr) (s t : State), exec i s = .next t →
    t.len = s.len ∧ (∀ a, t.readByte a = s.readByte a) ∧
    t.out.take s.out.length = s.out ∧ t.out.length = s.out.length + 1 ∧ t.out.getLast? = some i ∧
    t.cursor = s.cursor + 2

/-! ## The step -/

/-- R94, R19: when two bytes remain, the word fetched has the byte at the cursor in bits 15:8 and the next one in bits 7:0, so
its value is `buf[cursor] * 256 + buf[cursor + 1]`; when fewer remain, there is no fetch. -/
def Obligations.FetchReadsThePairBigEndian : Prop :=
  ∀ s : State,
    (s.len - s.cursor ≥ 2 → ∃ v, fetchWord s = some v ∧
      v.toNat = (Memory.read s.buf s.cursor).toNat * 256 + (Memory.read s.buf (s.cursor + 1)).toNat ∧
      s.readByte s.cursor = some (highByte v) ∧ s.readByte (s.cursor + 1) = some (lowByte v)) ∧
    (s.len - s.cursor < 2 → fetchWord s = none)

/-- R95, with R94: when two bytes remain, a step appends the classification of the word made of them, high byte first, and
advances the cursor by 2, and does nothing else; otherwise it is a stop: no token, and the cursor where it was. -/
def Obligations.StepAppendsTheClassifiedWord : Prop :=
  (∀ (s : State) (v : Word), s.len - s.cursor ≥ 2 →
    v.toNat = (Memory.read s.buf s.cursor).toNat * 256 + (Memory.read s.buf (s.cursor + 1)).toNat →
    step s = .next { s with out := s.out ++ [classify v], cursor := s.cursor + 2 }) ∧
  (∀ s t : State, s.len - s.cursor < 2 → step s = .next t → t.out = s.out ∧ t.cursor = s.cursor)

/-- A step runs the decoded instruction: when the bytes from the cursor on decode to `i`, step is `exec i`, and afterwards
the bytes from the cursor on are the rest; when they decode to nothing, the session has ended and the step leaves the
state as it is (the model's choice, log entry 4). -/
def Obligations.StepRunsTheDecodedInstruction : Prop :=
  (∀ (s : State) (i : Instr) (rest : List Byte), decodeBytes s.remaining = .instr i rest →
    step s = exec i s ∧ ∀ t, step s = .next t → t.remaining = rest) ∧
  (∀ (s : State) (r : DecodeReject), decodeBytes s.remaining = .rejected r → s.ended = true ∧ step s = .next s)

/-- What a step does on each word of families 0, 8, E and F at the cursor, fallback included: rules R54, R55, R68 to R92
joined to R95. The model's choices: the default selectors (decision D5, log entry 5), and the operands, the y of the
shifts, the order of subtract-reversed and the x of families E and F (decision D8, log entry 7). -/
def Obligations.StepOnSecondaryDispatchFamilies : Prop :=
  ∀ (s : State) (v : Word), fetchWord s = some v →
    (v = 0x00E0 → step s = .next (s.withToken .clearScreen)) ∧
    (v = 0x00EE → step s = .next (s.withToken .ret)) ∧
    (family v = 0x0 → v ≠ 0x00E0 → v ≠ 0x00EE → step s = .next (s.withToken (.opaqueData v))) ∧
    (family v = 0x8 → fieldN v = 0x0 → step s = .next (s.withToken (.copyRegister (fieldX v) (fieldY v)))) ∧
    (family v = 0x8 → fieldN v = 0x1 → step s = .next (s.withToken (.orRegister (fieldX v) (fieldY v)))) ∧
    (family v = 0x8 → fieldN v = 0x2 → step s = .next (s.withToken (.andRegister (fieldX v) (fieldY v)))) ∧
    (family v = 0x8 → fieldN v = 0x3 → step s = .next (s.withToken (.xorRegister (fieldX v) (fieldY v)))) ∧
    (family v = 0x8 → fieldN v = 0x4 → step s = .next (s.withToken (.addRegister (fieldX v) (fieldY v)))) ∧
    (family v = 0x8 → fieldN v = 0x5 → step s = .next (s.withToken (.subtractRegister (fieldX v) (fieldY v)))) ∧
    (family v = 0x8 → fieldN v = 0x6 → step s = .next (s.withToken (.shiftRight (fieldX v) (fieldY v)))) ∧
    (family v = 0x8 → fieldN v = 0x7 → step s = .next (s.withToken (.subtractReversed (fieldX v) (fieldY v)))) ∧
    (family v = 0x8 → fieldN v = 0xE → step s = .next (s.withToken (.shiftLeft (fieldX v) (fieldY v)))) ∧
    (family v = 0x8 → (fieldN v).toNat ∈ [8, 9, 10, 11, 12, 13, 15] → step s = .next (s.withToken (.opaqueData v))) ∧
    (family v = 0xE → fieldKK v = 0x9E → step s = .next (s.withToken (.skipKeyPressed (fieldX v)))) ∧
    (family v = 0xE → fieldKK v = 0xA1 → step s = .next (s.withToken (.skipKeyNotPressed (fieldX v)))) ∧
    (family v = 0xE → fieldKK v ∉ [0x9E, 0xA1] → step s = .next (s.withToken (.opaqueData v))) ∧
    (family v = 0xF → fieldKK v = 0x07 → step s = .next (s.withToken (.readDelayTimer (fieldX v)))) ∧
    (family v = 0xF → fieldKK v = 0x15 → step s = .next (s.withToken (.writeDelayTimer (fieldX v)))) ∧
    (family v = 0xF → fieldKK v = 0x18 → step s = .next (s.withToken (.writeSoundTimer (fieldX v)))) ∧
    (family v = 0xF → fieldKK v = 0x0A → step s = .next (s.withToken (.waitKey (fieldX v)))) ∧
    (family v = 0xF → fieldKK v = 0x1E → step s = .next (s.withToken (.addIndex (fieldX v)))) ∧
    (family v = 0xF → fieldKK v = 0x29 → step s = .next (s.withToken (.loadFontAddress (fieldX v)))) ∧
    (family v = 0xF → fieldKK v = 0x33 → step s = .next (s.withToken (.storeBcd (fieldX v)))) ∧
    (family v = 0xF → fieldKK v = 0x55 → step s = .next (s.withToken (.storeRegisters (fieldX v)))) ∧
    (family v = 0xF → fieldKK v = 0x65 → step s = .next (s.withToken (.loadRegisters (fieldX v)))) ∧
    (family v = 0xF → fieldKK v ∉ [0x07, 0x0A, 0x15, 0x18, 0x1E, 0x29, 0x33, 0x55, 0x65] →
      step s = .next (s.withToken (.opaqueData v)))

/-- What a step does on each word of the twelve single-shape families at the cursor: rules R56 to R67 joined to R95. The
model's choices: the positional pairing (decision D6, log entry 6); the operand lists, random-mask's x above all
(decision D8, log entry 7); the ignored low nibble of families 5 and 9 (decision D12, log entry 8). -/
def Obligations.StepOnSingleShapeFamilies : Prop :=
  ∀ (s : State) (v : Word), fetchWord s = some v →
    (family v = 0x1 → step s = .next (s.withToken (.jumpToAddress (fieldAddr v)))) ∧
    (family v = 0x2 → step s = .next (s.withToken (.callAddress (fieldAddr v)))) ∧
    (family v = 0x3 → step s = .next (s.withToken (.skipEqualByte (fieldX v) (fieldKK v)))) ∧
    (family v = 0x4 → step s = .next (s.withToken (.skipNotEqualByte (fieldX v) (fieldKK v)))) ∧
    (family v = 0x5 → step s = .next (s.withToken (.skipEqualRegister (fieldX v) (fieldY v)))) ∧
    (family v = 0x6 → step s = .next (s.withToken (.loadRegisterByte (fieldX v) (fieldKK v)))) ∧
    (family v = 0x7 → step s = .next (s.withToken (.addByte (fieldX v) (fieldKK v)))) ∧
    (family v = 0x9 → step s = .next (s.withToken (.skipNotEqualRegister (fieldX v) (fieldY v)))) ∧
    (family v = 0xA → step s = .next (s.withToken (.loadIndex (fieldAddr v)))) ∧
    (family v = 0xB → step s = .next (s.withToken (.jumpOffset (fieldAddr v)))) ∧
    (family v = 0xC → step s = .next (s.withToken (.randomMask (fieldX v) (fieldKK v)))) ∧
    (family v = 0xD → step s = .next (s.withToken (.drawSprite (fieldX v) (fieldY v) (fieldN v))))

/-- R102, R106: every step has a next state, whatever the bytes, and so has every instruction; no fault and no refusal is ever
answered. That an ended session's step answers its own state is the model's choice (log entry 4). -/
def Obligations.NoStepFaultsOrIsRefused : Prop :=
  (∀ s : State, ∃ t, step s = .next t) ∧ (∀ (i : Instr) (s : State), ∃ t, exec i s = .next t)

/-- R96: a session has ended exactly when fewer than two bytes remain; that is, in every state that meets the session
invariant, when the cursor is at the end of an even buffer or one byte before the end of an odd one; no byte and no token
decides it; and an ended session is final, it decodes no more however often it is stepped. -/
def Obligations.SessionEndsWhenFewerThanTwoBytesRemain : Prop :=
  (∀ s : State, s.ended = true ↔ s.len < s.cursor + 2) ∧
  (∀ s : State, SessionInv s → (s.ended = true ↔ (s.len % 2 = 0 ∧ s.cursor = s.len) ∨
    (s.len % 2 = 1 ∧ s.cursor + 1 = s.len))) ∧
  (∀ (s : State) (m : Memory) (ts : List Token), ({ s with buf := m, out := ts } : State).ended = s.ended) ∧
  (∀ (s t : State) (k : Nat), s.ended = true → run k s = .next t →
    t.ended = true ∧ t.out = s.out ∧ t.cursor = s.cursor ∧ t.len = s.len ∧ t.buf = s.buf)

/-- R14, R25 item 2: what a step appends depends on the two bytes at the cursor and on nothing else of the buffer. -/
def Obligations.TokenDependsOnItsTwoBytesOnly : Prop :=
  ∀ s s' t t' : State, s.cursor = s'.cursor → s.len = s'.len → s.out = s'.out →
    s.readByte s.cursor = s'.readByte s.cursor → s.readByte (s.cursor + 1) = s'.readByte (s.cursor + 1) →
    step s = .next t → step s' = .next t' → t.out = t'.out ∧ t.cursor = t'.cursor

/-! ## Sessions -/

/-- R16, R113: a session starts at offset 0 with an empty output over exactly the bytes the host supplied. -/
def Obligations.SessionStartsOverTheHostsBytes : Prop :=
  ∀ bs : List Byte,
    (State.start bs).cursor = 0 ∧ (State.start bs).out = [] ∧ (State.start bs).len = bs.length ∧
    (State.start bs).bytes = bs ∧ (∀ i, (State.start bs).readByte i = bs[i]?)

/-- The invariant at reset, before any host load (log entry 3). -/
def Obligations.ResetMeetsTheSessionInvariant : Prop := SessionInv State.reset

/-- The invariant at the start of a session over any bytes. -/
def Obligations.EverySessionStartMeetsTheInvariant : Prop := ∀ bs : List Byte, SessionInv (State.start bs)

/-- R9 invariants (a) and (b), R11, and the canonical form of the buffer: every step keeps them, from every state that meets
them. -/
def Obligations.StepKeepsTheSessionInvariant : Prop :=
  ∀ s t : State, SessionInv s → step s = .next t → SessionInv t ∧ t.cursor % 2 = 0

/-- R98: after `k` steps from the start of a session over any bytes, the output is the first `k` tokens of `decode(buf)`
and the cursor is at `2 * min k (floor(len/2))`; so once `k` is `floor(len/2)` or more, the output is `decode(buf)`.
That a run goes on past the end of the session, with nothing changed, is the model's choice (log entry 4). -/
def Obligations.RunComputesTheDecodedBuffer : Prop :=
  ∀ (bs : List Byte) (k : Nat),
    run k (State.start bs) =
      .next { State.start bs with
        cursor := 2 * min k (bs.length / 2)
        out := (decodeSession bs).take k }

/-- R99: the empty buffer decodes to the empty sequence, and any buffer to `floor(len/2)` tokens; a byte after an even
number of bytes contributes nothing; a session takes exactly `floor(len/2)` steps, its final cursor is `2 *
floor(len/2)`. That a run goes on past the end of the session, with nothing changed, is the model's choice (log entry
4). -/
def Obligations.SessionLengthLaw : Prop :=
  decodeSession [] = [] ∧
  (∀ bs : List Byte, (decodeSession bs).length = bs.length / 2) ∧
  (∀ (bs : List Byte) (b : Byte), bs.length % 2 = 0 → decodeSession (bs ++ [b]) = decodeSession bs) ∧
  (∀ (bs : List Byte) (k : Nat) (t : State), run k (State.start bs) = .next t →
    (t.ended = true ↔ bs.length / 2 ≤ k) ∧ (t.ended = true → t.cursor = 2 * (bs.length / 2)))

/-- The sweep, pair by pair, computes what R98's formula with indexes computes. -/
def Obligations.PairwiseSweepEqualsIndexedDecode : Prop := ∀ bs : List Byte, sweep bs = decodeSession bs

/-- R101: the decode of a sequence of byte pairs is the classification of each pair on its own, so permuting, inserting or
deleting pairs does the same to the tokens; and the decode of a concatenation at an even offset is the concatenation. -/
def Obligations.EachPairDecodesOnItsOwn : Prop :=
  (∀ ps : List (Byte × Byte),
    decodeSession (ps.flatMap (fun q => [q.1, q.2])) = ps.map (fun q => classify (fx q.1 q.2))) ∧
  (∀ bs cs : List Byte, bs.length % 2 = 0 → decodeSession (bs ++ cs) = decodeSession bs ++ decodeSession cs)

/-- R101: no byte of the buffer has any effect on the cursor, over a run of any length: jumps, calls, returns, skips and
wait-key are tokens like any other. That a run goes on past the end of the session, with nothing changed, is the model's
choice (log entry 4). -/
def Obligations.NoByteMovesTheCursor : Prop :=
  ∀ (k : Nat) (s t t' : State) (m : Memory),
    run k s = .next t → run k { s with buf := m } = .next t' →
    t.cursor = t'.cursor ∧ t.out.length = t'.out.length

/-- R11, R27: over a run of any length the buffer is never written, and the output only grows at its end. That a run
goes on past the end of the session, with nothing changed, is the model's choice (log entry 4). -/
def Obligations.RunKeepsTheBufferAndExtendsTheOutput : Prop :=
  ∀ (k : Nat) (s t : State), run k s = .next t →
    t.len = s.len ∧ t.buf = s.buf ∧ (∃ ts, t.out = s.out ++ ts ∧ ts.length ≤ k ∧ t.cursor = s.cursor + 2 * ts.length)

/-- R22: over a session each byte below `2 * floor(len/2)` is read exactly once, in increasing order of offset, and an
odd trailing byte is never read. That a run goes on past the end of the session, with nothing changed, is the model's
choice (log entry 4). -/
def Obligations.EachByteIsReadOnceInOrder : Prop :=
  ∀ (bs : List Byte) (k : Nat), readsOfRun k (State.start bs) = List.range (2 * min k (bs.length / 2))

/-- R119, R117: the host gets the output only once the session has ended, and then it is `decode(buf)`. That nothing is
handed over before is the spec's decision D17 (log entry 13). That a run goes on past the end of the session, with
nothing changed, is the model's choice (log entry 4). -/
def Obligations.HostGetsTheDecodedBufferAtTheEnd : Prop :=
  ∀ (bs : List Byte) (k : Nat) (t : State), run k (State.start bs) = .next t →
    t.handOver = if bs.length / 2 ≤ k then some (decodeSession bs) else none

/-- R9, *Width* and *Wrap-around*: with `len < 2^W` a `W`-bit cursor register holds the cursor exactly, its `+ 2` carries
nothing out, and its stop test is R96's, in every state that meets the invariant. -/
def Obligations.WBitCursorRegisterNeverWraps : Prop :=
  ∀ (W : Nat) (s t : State), s.len < 2 ^ W → SessionInv s → step s = .next t →
    (cursorRegister W s).toNat = s.cursor ∧
    endedRegister W s = s.ended ∧
    (s.ended = false →
      cursorRegister W t = cursorRegister W s + BitVec.ofNat W 2 ∧
      (cursorRegister W t).toNat = (cursorRegister W s).toNat + 2)

/-- The word stored for the next fetch is the one the next step runs, and no other byte changes (the host's load, log entry
3); the decoder reads the same instruction from it. -/
def Obligations.PlacedWordIsTheNextOneRun : Prop :=
  ∀ (s : State) (nbits w : Nat), Memory.wf s.buf = true →
    decodeTableWord nbits w = some (classify (tableWord nbits w)) ∧
    step (s.withFetchWord nbits w) = exec (classify (tableWord nbits w)) (s.withFetchWord nbits w) ∧
    (s.withFetchWord nbits w).cursor = s.cursor ∧ (s.withFetchWord nbits w).out = s.out ∧
    Memory.wf (s.withFetchWord nbits w).buf = true ∧
    (∀ a, a ≠ s.cursor → a ≠ s.cursor + 1 → Memory.read (s.withFetchWord nbits w).buf a = Memory.read s.buf a)

/-- A state of a session is its bytes, its cursor and its output: two states that meet the invariant and agree on these are
equal, so each buffer has one form (log entry 2). -/
def Obligations.SessionStateIsDeterminedByItsBytes : Prop :=
  ∀ s t : State, SessionInv s → SessionInv t → s.bytes = t.bytes → s.cursor = t.cursor → s = t

/-! ## Rendering -/

/-- R47: a byte is "0x" and two lowercase hexadecimal digits, which denote its value. -/
def Obligations.ImmediateBytesRenderAsTwoLowercaseHexDigits : Prop :=
  ∀ b : Byte, ∃ h l, renderByte b = ['0', 'x', h, l] ∧
    h ∈ ['0', '1', '2', '3', '4', '5', '6', '7', '8', '9', 'a', 'b', 'c', 'd', 'e', 'f'] ∧
    l ∈ ['0', '1', '2', '3', '4', '5', '6', '7', '8', '9', 'a', 'b', 'c', 'd', 'e', 'f'] ∧
    16 * (['0', '1', '2', '3', '4', '5', '6', '7', '8', '9', 'a', 'b', 'c', 'd', 'e', 'f'].idxOf h) +
      (['0', '1', '2', '3', '4', '5', '6', '7', '8', '9', 'a', 'b', 'c', 'd', 'e', 'f'].idxOf l) = b.toNat

/-- R46, R48: a register is "V" and the decimal index, an address "$" and the decimal value; the digits denote the value.
That the numerals are the shortest is the spec's decision D14 (log entry 14). -/
def Obligations.RegistersAndAddressesRenderInDecimal : Prop :=
  (∀ i : RegIndex, ∃ ds, renderRegister i = 'V' :: ds ∧ (∀ c ∈ ds, c.isDigit = true) ∧
    ds.foldl (fun n c => 10 * n + (c.toNat - '0'.toNat)) 0 = i.toNat ∧ (ds.length = 1 ∨ ds.head? ≠ some '0') ∧
    ds ≠ []) ∧
  (∀ a : Addr, ∃ ds, renderAddress a = '$' :: ds ∧ (∀ c ∈ ds, c.isDigit = true) ∧
    ds.foldl (fun n c => 10 * n + (c.toNat - '0'.toNat)) 0 = a.toNat ∧ (ds.length = 1 ∨ ds.head? ≠ some '0') ∧
    ds ≠ [])

/-! ## The inputs of a session as parameters -/

/-- R8, R95: `buf` and `len` are parameters of the step. With them as parameters, `decodeStep` takes the two pieces of
mutable state to the next; the machine's step is that one with the inputs carried along unchanged, and where `decodeStep` has
no step the session has ended and the state stays as it is (the model's choices, log entries 1 and 4). -/
def Obligations.StepIsDecodeStepWithItsInputsAsParameters : Prop :=
  (∀ (i : SessionInput) (m m' : DecodeState), decodeStep i m = some m' → step (i.withState m) = .next (i.withState m')) ∧
  (∀ (i : SessionInput) (m : DecodeState), decodeStep i m = none →
    (i.withState m).ended = true ∧ step (i.withState m) = .next (i.withState m)) ∧
  (∀ s t : State, step s = .next t → t.input = s.input)
end

