-- ==== Sys2Proof/Laws/Fields.lean ====
section
/-! SUPPORT. The fields of a word and the words of fields, as numbers (30_encoding.md R29 to R32, R35). -/

namespace Sys2Proof

/-! ## As numbers -/

/-- A concatenation as a number, at a width written as a sum. -/
theorem toNat_append_eq {m n : Nat} (a : BitVec m) (b : BitVec n) :
    (a ++ b).toNat = a.toNat * 2 ^ n + b.toNat := by
  rw [BitVec.toNat_append, ← Nat.shiftLeft_add_eq_or_of_lt b.isLt, Nat.shiftLeft_eq]

theorem toNat_fx (hi lo : Byte) : (fx hi lo).toNat = hi.toNat * 256 + lo.toNat := toNat_append_eq hi lo

theorem toNat_wordA (f : Nibble) (a : Addr) : (wordA f a).toNat = f.toNat * 4096 + a.toNat := toNat_append_eq f a

theorem toNat_wordXK (f : Nibble) (x : RegIndex) (kk : Byte) :
    (wordXK f x kk).toNat = (f.toNat * 16 + x.toNat) * 256 + kk.toNat := by
  have h : (wordXK f x kk).toNat = (f ++ x).toNat * 2 ^ 8 + kk.toNat := toNat_append_eq (f ++ x) kk
  rw [h, toNat_append_eq f x]; rfl

theorem toNat_wordXYN (f : Nibble) (x y : RegIndex) (n : Nibble) :
    (wordXYN f x y n).toNat = ((f.toNat * 16 + x.toNat) * 16 + y.toNat) * 16 + n.toNat := by
  have h : (wordXYN f x y n).toNat = ((f ++ x) ++ y).toNat * 2 ^ 4 + n.toNat := toNat_append_eq ((f ++ x) ++ y) n
  rw [h, toNat_append_eq (f ++ x) y, toNat_append_eq f x]; rfl

theorem toNat_slice (v : Word) (lo w : Nat) : (v.extractLsb' lo w).toNat = v.toNat / 2 ^ lo % 2 ^ w := by
  rw [BitVec.extractLsb'_toNat, Nat.shiftRight_eq_div_pow]

theorem toNat_highByte (v : Word) : (highByte v).toNat = v.toNat / 256 % 256 := toNat_slice v 8 8
theorem toNat_lowByte (v : Word) : (lowByte v).toNat = v.toNat / 1 % 256 := toNat_slice v 0 8
theorem toNat_family (v : Word) : (family v).toNat = v.toNat / 4096 % 16 := toNat_slice v 12 4
theorem toNat_fieldX (v : Word) : (fieldX v).toNat = v.toNat / 256 % 16 := toNat_slice v 8 4
theorem toNat_fieldY (v : Word) : (fieldY v).toNat = v.toNat / 16 % 16 := toNat_slice v 4 4
theorem toNat_fieldN (v : Word) : (fieldN v).toNat = v.toNat / 1 % 16 := toNat_slice v 0 4
theorem toNat_fieldKK (v : Word) : (fieldKK v).toNat = v.toNat / 1 % 256 := toNat_slice v 0 8
theorem toNat_fieldAddr (v : Word) : (fieldAddr v).toNat = v.toNat / 1 % 4096 := toNat_slice v 0 12

/-! ## The fields of a built word -/

@[simp] theorem highByte_fx (hi lo : Byte) : highByte (fx hi lo) = hi :=
  BitVec.eq_of_toNat_eq (by rw [toNat_highByte, toNat_fx]; omega)
@[simp] theorem lowByte_fx (hi lo : Byte) : lowByte (fx hi lo) = lo :=
  BitVec.eq_of_toNat_eq (by rw [toNat_lowByte, toNat_fx]; omega)
@[simp] theorem fx_high_low (v : Word) : fx (highByte v) (lowByte v) = v :=
  BitVec.eq_of_toNat_eq (by rw [toNat_fx, toNat_highByte, toNat_lowByte]; omega)

@[simp] theorem family_wordA (f : Nibble) (a : Addr) : family (wordA f a) = f :=
  BitVec.eq_of_toNat_eq (by rw [toNat_family, toNat_wordA]; omega)
@[simp] theorem fieldAddr_wordA (f : Nibble) (a : Addr) : fieldAddr (wordA f a) = a :=
  BitVec.eq_of_toNat_eq (by rw [toNat_fieldAddr, toNat_wordA]; omega)

@[simp] theorem family_wordXK (f : Nibble) (x : RegIndex) (kk : Byte) : family (wordXK f x kk) = f :=
  BitVec.eq_of_toNat_eq (by rw [toNat_family, toNat_wordXK]; omega)
@[simp] theorem fieldX_wordXK (f : Nibble) (x : RegIndex) (kk : Byte) : fieldX (wordXK f x kk) = x :=
  BitVec.eq_of_toNat_eq (by rw [toNat_fieldX, toNat_wordXK]; omega)
@[simp] theorem fieldKK_wordXK (f : Nibble) (x : RegIndex) (kk : Byte) : fieldKK (wordXK f x kk) = kk :=
  BitVec.eq_of_toNat_eq (by rw [toNat_fieldKK, toNat_wordXK]; omega)

@[simp] theorem family_wordXYN (f : Nibble) (x y : RegIndex) (n : Nibble) : family (wordXYN f x y n) = f :=
  BitVec.eq_of_toNat_eq (by rw [toNat_family, toNat_wordXYN]; omega)
@[simp] theorem fieldX_wordXYN (f : Nibble) (x y : RegIndex) (n : Nibble) : fieldX (wordXYN f x y n) = x :=
  BitVec.eq_of_toNat_eq (by rw [toNat_fieldX, toNat_wordXYN]; omega)
@[simp] theorem fieldY_wordXYN (f : Nibble) (x y : RegIndex) (n : Nibble) : fieldY (wordXYN f x y n) = y :=
  BitVec.eq_of_toNat_eq (by rw [toNat_fieldY, toNat_wordXYN]; omega)
@[simp] theorem fieldN_wordXYN (f : Nibble) (x y : RegIndex) (n : Nibble) : fieldN (wordXYN f x y n) = n :=
  BitVec.eq_of_toNat_eq (by rw [toNat_fieldN, toNat_wordXYN]; omega)

/-! ## A word is its fields -/

theorem wordA_fields (v : Word) : wordA (family v) (fieldAddr v) = v :=
  BitVec.eq_of_toNat_eq (by rw [toNat_wordA, toNat_family, toNat_fieldAddr]; omega)
theorem wordXK_fields (v : Word) : wordXK (family v) (fieldX v) (fieldKK v) = v :=
  BitVec.eq_of_toNat_eq (by rw [toNat_wordXK, toNat_family, toNat_fieldX, toNat_fieldKK]; omega)
theorem wordXYN_fields (v : Word) : wordXYN (family v) (fieldX v) (fieldY v) (fieldN v) = v :=
  BitVec.eq_of_toNat_eq
    (by rw [toNat_wordXYN, toNat_family, toNat_fieldX, toNat_fieldY, toNat_fieldN]; omega)

/-! ## Words and their four nibbles, one to one -/

/-- Every word is its four nibbles, and every four nibbles are a word (30_encoding.md R29, R32). -/
def wordEquivNibbles : Word ≃ Nibble × RegIndex × RegIndex × Nibble where
  toFun v := (family v, fieldX v, fieldY v, fieldN v)
  invFun q := wordXYN q.1 q.2.1 q.2.2.1 q.2.2.2
  left_inv := wordXYN_fields
  right_inv q := by simp

/-- Counting words is counting quadruples of nibbles. -/
theorem card_words_by_nibbles (P : Nibble × RegIndex × RegIndex × Nibble → Prop) [DecidablePred P] :
    (Finset.univ.filter (fun v : Word => P (wordEquivNibbles v))).card = (Finset.univ.filter P).card :=
  Finset.card_equiv wordEquivNibbles (by simp)

/-! ## Words of four nibbles under a mask -/

theorem wordXYN_injective {f f' : Nibble} {x x' y y' : RegIndex} {n n' : Nibble} :
    wordXYN f x y n = wordXYN f' x' y' n' ↔ f = f' ∧ x = x' ∧ y = y' ∧ n = n' := by
  constructor
  · intro h
    exact ⟨by simpa using congrArg family h, by simpa using congrArg fieldX h, by simpa using congrArg fieldY h,
      by simpa using congrArg fieldN h⟩
  · rintro ⟨rfl, rfl, rfl, rfl⟩
    rfl

/-- A mask acts on each nibble. -/
theorem wordXYN_and (f f' : Nibble) (x x' y y' : RegIndex) (n n' : Nibble) :
    wordXYN f x y n &&& wordXYN f' x' y' n' = wordXYN (f &&& f') (x &&& x') (y &&& y') (n &&& n') := by
  unfold wordXYN
  exact (BitVec.and_append (x₁ := (f ++ x) ++ y) (y₁ := n) (x₂ := (f' ++ x') ++ y') (y₂ := n')).trans
    (congrArg (· ++ (n &&& n')) ((BitVec.and_append (x₁ := f ++ x)).trans
      (congrArg (· ++ (y &&& y')) BitVec.and_append)))

/-- A low byte is its two nibbles (30_encoding.md R32). -/
theorem wordXK_eq_wordXYN (f : Nibble) (x : RegIndex) (kk : Byte) :
    wordXK f x kk = wordXYN f x (kk.extractLsb' 4 4) (kk.extractLsb' 0 4) := by
  refine BitVec.eq_of_toNat_eq ?_
  rw [toNat_wordXK, toNat_wordXYN, BitVec.extractLsb'_toNat, BitVec.extractLsb'_toNat, Nat.shiftRight_eq_div_pow,
    Nat.shiftRight_eq_div_pow]
  omega

end Sys2Proof
end

