-- ==== Sys2Proof/Laws/Classify.lean ====
section
/-! SUPPORT. The dispatch table, one lemma per arm: what `classifyWith` is on a word of each family (30_encoding.md
R34), and that every word is of one of the sixteen. -/

namespace Sys2Proof

/-! ## The default parameters, field by field -/

@[simp] theorem defaultParams_shape1 : defaultParams.shape1 = .jumpToAddress := rfl
@[simp] theorem defaultParams_shape2 : defaultParams.shape2 = .callAddress := rfl
@[simp] theorem defaultParams_shape3 : defaultParams.shape3 = .skipEqualByte := rfl
@[simp] theorem defaultParams_shape4 : defaultParams.shape4 = .skipNotEqualByte := rfl
@[simp] theorem defaultParams_shape5 : defaultParams.shape5 = .skipEqualRegister := rfl
@[simp] theorem defaultParams_shape6 : defaultParams.shape6 = .loadRegisterByte := rfl
@[simp] theorem defaultParams_shape7 : defaultParams.shape7 = .addByte := rfl
@[simp] theorem defaultParams_shape9 : defaultParams.shape9 = .skipNotEqualRegister := rfl
@[simp] theorem defaultParams_shapeA : defaultParams.shapeA = .loadIndex := rfl
@[simp] theorem defaultParams_shapeB : defaultParams.shapeB = .jumpOffset := rfl
@[simp] theorem defaultParams_shapeC : defaultParams.shapeC = .randomMask := rfl
@[simp] theorem defaultParams_shapeD : defaultParams.shapeD = .drawSprite := rfl
@[simp] theorem defaultParams_sel8Or : defaultParams.sel8Or = 0x1 := rfl
@[simp] theorem defaultParams_sel8And : defaultParams.sel8And = 0x2 := rfl
@[simp] theorem defaultParams_sel8Xor : defaultParams.sel8Xor = 0x3 := rfl
@[simp] theorem defaultParams_sel8Add : defaultParams.sel8Add = 0x4 := rfl
@[simp] theorem defaultParams_sel8Shr : defaultParams.sel8Shr = 0x6 := rfl
@[simp] theorem defaultParams_sel8Subn : defaultParams.sel8Subn = 0x7 := rfl
@[simp] theorem defaultParams_sel8Shl : defaultParams.sel8Shl = 0xE := rfl
@[simp] theorem defaultParams_selESkp : defaultParams.selESkp = 0x9E := rfl
@[simp] theorem defaultParams_selESknp : defaultParams.selESknp = 0xA1 := rfl
@[simp] theorem defaultParams_selFRdt : defaultParams.selFRdt = 0x07 := rfl
@[simp] theorem defaultParams_selFWdt : defaultParams.selFWdt = 0x15 := rfl
@[simp] theorem defaultParams_selFWst : defaultParams.selFWst = 0x18 := rfl
@[simp] theorem defaultParams_selFKey : defaultParams.selFKey = 0x0A := rfl
@[simp] theorem defaultParams_selFAddi : defaultParams.selFAddi = 0x1E := rfl
@[simp] theorem defaultParams_selFBcd : defaultParams.selFBcd = 0x33 := rfl
@[simp] theorem defaultParams_selFStore : defaultParams.selFStore = 0x55 := rfl
@[simp] theorem defaultParams_selFLoad : defaultParams.selFLoad = 0x65 := rfl

theorem defaultParams_admissible : defaultParams.Admissible := by decide

theorem classifyWith_family0 {p : Params} {v : Word} (h : family v = 0x0) : classifyWith p v = classifyFamily0 v := by
  simp [classifyWith, h]
theorem classifyWith_family1 {p : Params} {v : Word} (h : family v = 0x1) : classifyWith p v = p.shape1.token v := by
  simp [classifyWith, h]
theorem classifyWith_family2 {p : Params} {v : Word} (h : family v = 0x2) : classifyWith p v = p.shape2.token v := by
  simp [classifyWith, h]
theorem classifyWith_family3 {p : Params} {v : Word} (h : family v = 0x3) : classifyWith p v = p.shape3.token v := by
  simp [classifyWith, h]
theorem classifyWith_family4 {p : Params} {v : Word} (h : family v = 0x4) : classifyWith p v = p.shape4.token v := by
  simp [classifyWith, h]
theorem classifyWith_family5 {p : Params} {v : Word} (h : family v = 0x5) : classifyWith p v = p.shape5.token v := by
  simp [classifyWith, h]
theorem classifyWith_family6 {p : Params} {v : Word} (h : family v = 0x6) : classifyWith p v = p.shape6.token v := by
  simp [classifyWith, h]
theorem classifyWith_family7 {p : Params} {v : Word} (h : family v = 0x7) : classifyWith p v = p.shape7.token v := by
  simp [classifyWith, h]
theorem classifyWith_family8 {p : Params} {v : Word} (h : family v = 0x8) : classifyWith p v = classifyFamily8 p v := by
  simp [classifyWith, h]
theorem classifyWith_family9 {p : Params} {v : Word} (h : family v = 0x9) : classifyWith p v = p.shape9.token v := by
  simp [classifyWith, h]
theorem classifyWith_familyA {p : Params} {v : Word} (h : family v = 0xA) : classifyWith p v = p.shapeA.token v := by
  simp [classifyWith, h]
theorem classifyWith_familyB {p : Params} {v : Word} (h : family v = 0xB) : classifyWith p v = p.shapeB.token v := by
  simp [classifyWith, h]
theorem classifyWith_familyC {p : Params} {v : Word} (h : family v = 0xC) : classifyWith p v = p.shapeC.token v := by
  simp [classifyWith, h]
theorem classifyWith_familyD {p : Params} {v : Word} (h : family v = 0xD) : classifyWith p v = p.shapeD.token v := by
  simp [classifyWith, h]
theorem classifyWith_familyE {p : Params} {v : Word} (h : family v = 0xE) : classifyWith p v = classifyFamilyE p v := by
  simp [classifyWith, h]
theorem classifyWith_familyF {p : Params} {v : Word} (h : family v = 0xF) : classifyWith p v = classifyFamilyF p v := by
  simp [classifyWith, h]

/-- Every family nibble is one of the sixteen. -/
theorem nibble_cases (f : Nibble) :
    f = 0x0 ∨ f = 0x1 ∨ f = 0x2 ∨ f = 0x3 ∨ f = 0x4 ∨ f = 0x5 ∨ f = 0x6 ∨ f = 0x7 ∨ f = 0x8 ∨ f = 0x9 ∨ f = 0xA ∨
      f = 0xB ∨ f = 0xC ∨ f = 0xD ∨ f = 0xE ∨ f = 0xF := by
  revert f; decide

/-! ## What each arm can answer -/

@[simp] theorem token_code (s : SingleShape) (v : Word) : (s.token v).code = s.code := by cases s <;> rfl

theorem singleShape_code_range (s : SingleShape) : 2 ≤ s.code ∧ s.code ≤ 13 := by cases s <;> decide

theorem singleShape_code_injective {s s' : SingleShape} : s.code = s'.code ↔ s = s' := by
  cases s <;> cases s' <;> decide

/-- Everything family 0 can answer (R37). -/
theorem classifyFamily0_cases (v : Word) :
    (v = 0x00E0#16 ∧ classifyFamily0 v = .clearScreen) ∨
    (v = 0x00EE#16 ∧ classifyFamily0 v = .ret) ∨
    (v ≠ 0x00E0#16 ∧ v ≠ 0x00EE#16 ∧ classifyFamily0 v = .opaqueData v) := by
  unfold classifyFamily0
  by_cases h0 : v = 0x00E0#16
  · exact .inl ⟨h0, if_pos h0⟩
  · rw [if_neg h0]
    by_cases h1 : v = 0x00EE#16
    · exact .inr (.inl ⟨h1, if_pos h1⟩)
    · exact .inr (.inr ⟨h0, h1, if_neg h1⟩)

/-- Everything family 8 can answer (R38). -/
theorem classifyFamily8_cases (p : Params) (v : Word) :
    (fieldN v = 0x0#4 ∧ classifyFamily8 p v = .copyRegister (fieldX v) (fieldY v)) ∨
    (fieldN v = p.sel8Or ∧ classifyFamily8 p v = .orRegister (fieldX v) (fieldY v)) ∨
    (fieldN v = p.sel8And ∧ classifyFamily8 p v = .andRegister (fieldX v) (fieldY v)) ∨
    (fieldN v = p.sel8Xor ∧ classifyFamily8 p v = .xorRegister (fieldX v) (fieldY v)) ∨
    (fieldN v = p.sel8Add ∧ classifyFamily8 p v = .addRegister (fieldX v) (fieldY v)) ∨
    (fieldN v = 0x5#4 ∧ classifyFamily8 p v = .subtractRegister (fieldX v) (fieldY v)) ∨
    (fieldN v = p.sel8Shr ∧ classifyFamily8 p v = .shiftRight (fieldX v) (fieldY v)) ∨
    (fieldN v = p.sel8Subn ∧ classifyFamily8 p v = .subtractReversed (fieldX v) (fieldY v)) ∨
    (fieldN v = p.sel8Shl ∧ classifyFamily8 p v = .shiftLeft (fieldX v) (fieldY v)) ∨
    (fieldN v ∉ p.selectors8 ∧ classifyFamily8 p v = .opaqueData v) := by
  generalize e : classifyFamily8 p v = t
  unfold classifyFamily8 at e
  simp only [] at e
  repeat' split at e
  all_goals
    subst e
    simp only [reduceCtorEq, and_false, false_or, or_false, and_true]
    first | assumption | (simp only [Params.selectors8, List.mem_cons, List.not_mem_nil, not_or, or_false]; tauto)

/-- Everything family E can answer (R39). -/
theorem classifyFamilyE_cases (p : Params) (v : Word) :
    (fieldKK v = p.selESkp ∧ classifyFamilyE p v = .skipKeyPressed (fieldX v)) ∨
    (fieldKK v = p.selESknp ∧ classifyFamilyE p v = .skipKeyNotPressed (fieldX v)) ∨
    (fieldKK v ∉ p.selectorsE ∧ classifyFamilyE p v = .opaqueData v) := by
  generalize e : classifyFamilyE p v = t
  unfold classifyFamilyE at e
  simp only [] at e
  repeat' split at e
  all_goals
    subst e
    simp only [reduceCtorEq, and_false, false_or, or_false, and_true]
    first | assumption | (simp only [Params.selectorsE, List.mem_cons, List.not_mem_nil, not_or, or_false]; tauto)

/-- Everything family F can answer (R40). -/
theorem classifyFamilyF_cases (p : Params) (v : Word) :
    (fieldKK v = p.selFRdt ∧ classifyFamilyF p v = .readDelayTimer (fieldX v)) ∨
    (fieldKK v = p.selFWdt ∧ classifyFamilyF p v = .writeDelayTimer (fieldX v)) ∨
    (fieldKK v = p.selFWst ∧ classifyFamilyF p v = .writeSoundTimer (fieldX v)) ∨
    (fieldKK v = p.selFKey ∧ classifyFamilyF p v = .waitKey (fieldX v)) ∨
    (fieldKK v = p.selFAddi ∧ classifyFamilyF p v = .addIndex (fieldX v)) ∨
    (fieldKK v = 0x29#8 ∧ classifyFamilyF p v = .loadFontAddress (fieldX v)) ∨
    (fieldKK v = p.selFBcd ∧ classifyFamilyF p v = .storeBcd (fieldX v)) ∨
    (fieldKK v = p.selFStore ∧ classifyFamilyF p v = .storeRegisters (fieldX v)) ∨
    (fieldKK v = p.selFLoad ∧ classifyFamilyF p v = .loadRegisters (fieldX v)) ∨
    (fieldKK v ∉ p.selectorsF ∧ classifyFamilyF p v = .opaqueData v) := by
  generalize e : classifyFamilyF p v = t
  unfold classifyFamilyF at e
  simp only [] at e
  repeat' split at e
  all_goals
    subst e
    simp only [reduceCtorEq, and_false, false_or, or_false, and_true]
    first | assumption | (simp only [Params.selectorsF, List.mem_cons, List.not_mem_nil, not_or, or_false]; tauto)

/-- The five kinds of arm (R34): a secondary dispatch, or the single shape that the parameters give the family. -/
theorem classifyWith_cases (p : Params) (v : Word) :
    (family v = 0x0 ∧ classifyWith p v = classifyFamily0 v) ∨
    (family v = 0x8 ∧ classifyWith p v = classifyFamily8 p v) ∨
    (family v = 0xE ∧ classifyWith p v = classifyFamilyE p v) ∨
    (family v = 0xF ∧ classifyWith p v = classifyFamilyF p v) ∨
    (∃ s, (family v, s) ∈ List.zip [0x1, 0x2, 0x3, 0x4, 0x5, 0x6, 0x7, 0x9, 0xA, 0xB, 0xC, 0xD] p.shapes ∧
      classifyWith p v = s.token v) := by
  rcases nibble_cases (family v) with h | h | h | h | h | h | h | h | h | h | h | h | h | h | h | h
  · exact .inl ⟨h, classifyWith_family0 h⟩
  · exact .inr (.inr (.inr (.inr ⟨p.shape1, by simp [h, Params.shapes], classifyWith_family1 h⟩)))
  · exact .inr (.inr (.inr (.inr ⟨p.shape2, by simp [h, Params.shapes], classifyWith_family2 h⟩)))
  · exact .inr (.inr (.inr (.inr ⟨p.shape3, by simp [h, Params.shapes], classifyWith_family3 h⟩)))
  · exact .inr (.inr (.inr (.inr ⟨p.shape4, by simp [h, Params.shapes], classifyWith_family4 h⟩)))
  · exact .inr (.inr (.inr (.inr ⟨p.shape5, by simp [h, Params.shapes], classifyWith_family5 h⟩)))
  · exact .inr (.inr (.inr (.inr ⟨p.shape6, by simp [h, Params.shapes], classifyWith_family6 h⟩)))
  · exact .inr (.inr (.inr (.inr ⟨p.shape7, by simp [h, Params.shapes], classifyWith_family7 h⟩)))
  · exact .inr (.inl ⟨h, classifyWith_family8 h⟩)
  · exact .inr (.inr (.inr (.inr ⟨p.shape9, by simp [h, Params.shapes], classifyWith_family9 h⟩)))
  · exact .inr (.inr (.inr (.inr ⟨p.shapeA, by simp [h, Params.shapes], classifyWith_familyA h⟩)))
  · exact .inr (.inr (.inr (.inr ⟨p.shapeB, by simp [h, Params.shapes], classifyWith_familyB h⟩)))
  · exact .inr (.inr (.inr (.inr ⟨p.shapeC, by simp [h, Params.shapes], classifyWith_familyC h⟩)))
  · exact .inr (.inr (.inr (.inr ⟨p.shapeD, by simp [h, Params.shapes], classifyWith_familyD h⟩)))
  · exact .inr (.inr (.inl ⟨h, classifyWith_familyE h⟩))
  · exact .inr (.inr (.inr (.inl ⟨h, classifyWith_familyF h⟩)))

end Sys2Proof
end

