-- ==== Sys2Proof/Laws/Memory.lean ====
section
/-! SUPPORT. The laws of the buffer: read after write, the canonical form and that every operation keeps it, and that
equal readings are equal cells. -/

namespace Sys2Proof.Machine

@[simp] theorem Memory.read_nil (a : Nat) : Memory.read [] a = unlistedByte := rfl

theorem Memory.read_cons (c : Host.Cell) (m : Memory) (a : Nat) :
    Memory.read (c :: m) a = if c.1 = a then c.2 else Memory.read m a := rfl

/-- What the canonical form of a non-empty list says. -/
theorem Memory.wfFrom_cons {lo : Nat} {c : Host.Cell} {m : Memory} :
    Memory.wfFrom lo (c :: m) = true ↔ lo ≤ c.1 ∧ c.2 ≠ unlistedByte ∧ Memory.wfFrom (c.1 + 1) m = true := by
  simp [Memory.wfFrom, and_assoc]

theorem Memory.wfFrom_mono {lo lo' : Nat} {m : Memory} (h : lo' ≤ lo) (hm : Memory.wfFrom lo m = true) :
    Memory.wfFrom lo' m = true := by
  cases m with
  | nil => rfl
  | cons c m =>
    obtain ⟨h1, h2, h3⟩ := Memory.wfFrom_cons.1 hm
    exact Memory.wfFrom_cons.2 ⟨by omega, h2, h3⟩

/-- In the canonical form an offset below the bound is not listed. -/
theorem Memory.read_below {lo a : Nat} {m : Memory} (hm : Memory.wfFrom lo m = true) (h : a < lo) :
    Memory.read m a = unlistedByte := by
  induction m generalizing lo with
  | nil => rfl
  | cons c m ih =>
    obtain ⟨h1, _, h3⟩ := Memory.wfFrom_cons.1 hm
    rw [Memory.read_cons, if_neg (by omega), ih h3 (by omega)]

/-- A write reads back, and leaves every other offset as it was. -/
theorem Memory.read_write {lo : Nat} {m : Memory} (hm : Memory.wfFrom lo m = true) (a : Nat) (b : Byte) (i : Nat) :
    Memory.read (Memory.write m a b) i = if i = a then b else Memory.read m i := by
  induction m generalizing lo with
  | nil =>
    unfold Memory.write
    split
    · subst b
      simp
    · simp only [Memory.read_cons, eq_comm (a := a)]
  | cons c m ih =>
    obtain ⟨h1, h2, h3⟩ := Memory.wfFrom_cons.1 hm
    unfold Memory.write
    split
    · rename_i hlt
      split
      · subst b
        by_cases hi : i = a
        · rw [if_pos hi, Memory.read_cons, if_neg (by omega), Memory.read_below h3 (by omega)]
        · rw [if_neg hi]
      · rw [Memory.read_cons]
        simp only [eq_comm (a := a)]
    · split
      · rename_i hlt heq
        split
        · subst b
          by_cases hi : i = a
          · rw [if_pos hi, Memory.read_below h3 (by omega)]
          · rw [if_neg hi, Memory.read_cons, if_neg (by omega)]
        · simp only [Memory.read_cons]
          by_cases hi : i = a
          · simp [hi]
          · rw [if_neg (by omega), if_neg hi, if_neg (by omega)]
      · rename_i hlt heq
        rw [Memory.read_cons, ih h3, Memory.read_cons]
        by_cases hi : i = a
        · rw [if_neg (by omega), if_pos hi, if_pos hi]
        · simp only [if_neg hi]

/-- A write keeps the canonical form. -/
theorem Memory.wfFrom_write {lo : Nat} {m : Memory} (hm : Memory.wfFrom lo m = true) {a : Nat} (h : lo ≤ a) (b : Byte) :
    Memory.wfFrom lo (Memory.write m a b) = true := by
  induction m generalizing lo with
  | nil =>
    unfold Memory.write
    split
    · rfl
    · rename_i hb
      exact Memory.wfFrom_cons.2 ⟨h, hb, rfl⟩
  | cons c m ih =>
    obtain ⟨h1, h2, h3⟩ := Memory.wfFrom_cons.1 hm
    unfold Memory.write
    split
    · rename_i hlt
      split
      · exact hm
      · rename_i hb
        exact Memory.wfFrom_cons.2 ⟨h, hb, Memory.wfFrom_cons.2 ⟨hlt, h2, h3⟩⟩
    · split
      · rename_i hlt heq
        split
        · exact Memory.wfFrom_mono (by omega) h3
        · rename_i hb
          exact Memory.wfFrom_cons.2 ⟨h, hb, heq ▸ h3⟩
      · exact Memory.wfFrom_cons.2 ⟨h1, h2, ih h3 (by omega)⟩

theorem Memory.wf_write {m : Memory} (hm : Memory.wf m = true) (a : Nat) (b : Byte) :
    Memory.wf (Memory.write m a b) = true :=
  Memory.wfFrom_write hm (Nat.zero_le a) b

/-- The cells of a byte sequence are in the canonical form. -/
theorem Memory.wfFrom_ofBytesFrom (a : Nat) (bs : List Byte) :
    Memory.wfFrom a (Memory.ofBytesFrom a bs) = true := by
  induction bs generalizing a with
  | nil => rfl
  | cons b bs ih =>
    unfold Memory.ofBytesFrom
    split
    · exact Memory.wfFrom_mono (Nat.le_succ a) (ih (a + 1))
    · rename_i hb
      exact Memory.wfFrom_cons.2 ⟨Nat.le_refl a, hb, ih (a + 1)⟩

theorem Memory.wf_ofBytes (bs : List Byte) : Memory.wf (Memory.ofBytes bs) = true :=
  Memory.wfFrom_ofBytesFrom 0 bs

/-- Reading the cells of a byte sequence gives its bytes. -/
theorem Memory.read_ofBytesFrom (a : Nat) (bs : List Byte) (i : Nat) :
    Memory.read (Memory.ofBytesFrom a bs) (a + i) = bs.getD i unlistedByte := by
  induction bs generalizing a i with
  | nil => simp [Memory.ofBytesFrom]
  | cons b bs ih =>
    unfold Memory.ofBytesFrom
    split
    · rename_i hb
      cases i with
      | zero => simpa [hb] using Memory.read_below (Memory.wfFrom_ofBytesFrom (a + 1) bs) (Nat.lt_succ_self a)
      | succ i => simpa [Nat.add_assoc, Nat.add_comm 1] using ih (a + 1) i
    · rw [Memory.read_cons]
      cases i with
      | zero => simp
      | succ i =>
        rw [if_neg (by simp)]
        simpa [Nat.add_assoc, Nat.add_comm 1] using ih (a + 1) i

theorem Memory.read_ofBytes (bs : List Byte) (i : Nat) :
    Memory.read (Memory.ofBytes bs) i = bs.getD i unlistedByte := by
  simpa [Memory.ofBytes] using Memory.read_ofBytesFrom 0 bs i

/-- Every cell of a byte sequence stands inside it. -/
theorem Memory.ofBytesFrom_within (a : Nat) (bs : List Byte) :
    ∀ c ∈ Memory.ofBytesFrom a bs, c.1 < a + bs.length := by
  induction bs generalizing a with
  | nil => simp [Memory.ofBytesFrom]
  | cons b bs ih =>
    intro c hc
    have hlen : (b :: bs).length = bs.length + 1 := rfl
    unfold Memory.ofBytesFrom at hc
    split at hc
    · have := ih (a + 1) c hc
      omega
    · rcases List.mem_cons.1 hc with rfl | hc
      · simp only []
        omega
      · have := ih (a + 1) c hc
        omega

/-- Two buffers in the canonical form that read the same everywhere are the same cells. -/
theorem Memory.ext_read {lo : Nat} {m m' : Memory} (hm : Memory.wfFrom lo m = true) (hm' : Memory.wfFrom lo m' = true)
    (h : ∀ i, Memory.read m i = Memory.read m' i) : m = m' := by
  induction m generalizing lo m' with
  | nil =>
    cases m' with
    | nil => rfl
    | cons c m' =>
      obtain ⟨_, h2, _⟩ := Memory.wfFrom_cons.1 hm'
      exact absurd (by simpa [Memory.read_cons] using (h c.1).symm) h2
  | cons c m ih =>
    obtain ⟨h1, h2, h3⟩ := Memory.wfFrom_cons.1 hm
    cases m' with
    | nil => exact absurd (by simpa [Memory.read_cons] using h c.1) h2
    | cons d m' =>
      obtain ⟨g1, g2, g3⟩ := Memory.wfFrom_cons.1 hm'
      have hcd : c.1 = d.1 := by
        rcases Nat.lt_trichotomy c.1 d.1 with hlt | heq | hgt
        · have := h c.1
          rw [Memory.read_cons, if_pos rfl, Memory.read_cons, if_neg (by omega), Memory.read_below g3 (by omega)] at this
          exact absurd this h2
        · exact heq
        · have := h d.1
          rw [Memory.read_cons, if_neg (by omega), Memory.read_below h3 (by omega), Memory.read_cons, if_pos rfl] at this
          exact absurd this.symm g2
      have hv : c.2 = d.2 := by
        have := h c.1
        rwa [Memory.read_cons, if_pos rfl, Memory.read_cons, if_pos hcd.symm] at this
      have htail : m = m' := by
        refine ih h3 (hcd ▸ g3) (fun i => ?_)
        by_cases hi : i = c.1
        · rw [Memory.read_below h3 (by omega), Memory.read_below g3 (by omega)]
        · have := h i
          rwa [Memory.read_cons, if_neg (by omega), Memory.read_cons, if_neg (by omega)] at this
      rw [show c = d from Prod.ext hcd hv, htail]

end Sys2Proof.Machine
end

