-- ==== Sys2Proof/Laws/State.lean ====
section
/-! SUPPORT. One lemma per field for each update of the state, so that no later proof unfolds a record update. -/

namespace Sys2Proof.Machine

@[simp] theorem appendToken_len (t : Token) (s : State) : (appendToken t s).len = s.len := rfl
@[simp] theorem appendToken_buf (t : Token) (s : State) : (appendToken t s).buf = s.buf := rfl
@[simp] theorem appendToken_cursor (t : Token) (s : State) : (appendToken t s).cursor = s.cursor := rfl
@[simp] theorem appendToken_out (t : Token) (s : State) : (appendToken t s).out = s.out ++ [t] := rfl

@[simp] theorem advanceCursor_len (s : State) : (advanceCursor s).len = s.len := rfl
@[simp] theorem advanceCursor_buf (s : State) : (advanceCursor s).buf = s.buf := rfl
@[simp] theorem advanceCursor_cursor (s : State) : (advanceCursor s).cursor = s.cursor + 2 := rfl
@[simp] theorem advanceCursor_out (s : State) : (advanceCursor s).out = s.out := rfl

@[simp] theorem placeWord_len (s : State) (v : Word) : (placeWord s v).len = max s.len (s.cursor + 2) := rfl
@[simp] theorem placeWord_buf (s : State) (v : Word) :
    (placeWord s v).buf =
      Memory.write (Memory.write s.buf s.cursor (highByte v)) (s.cursor + 1) (lowByte v) := rfl
@[simp] theorem placeWord_cursor (s : State) (v : Word) : (placeWord s v).cursor = s.cursor := rfl
@[simp] theorem placeWord_out (s : State) (v : Word) : (placeWord s v).out = s.out := rfl

@[simp] theorem withToken_len (s : State) (t : Token) : (s.withToken t).len = s.len := rfl
@[simp] theorem withToken_buf (s : State) (t : Token) : (s.withToken t).buf = s.buf := rfl
@[simp] theorem withToken_cursor (s : State) (t : Token) : (s.withToken t).cursor = s.cursor + 2 := rfl
@[simp] theorem withToken_out (s : State) (t : Token) : (s.withToken t).out = s.out ++ [t] := rfl

@[simp] theorem start_len (bs : List Byte) : (State.start bs).len = bs.length := rfl
@[simp] theorem start_buf (bs : List Byte) : (State.start bs).buf = Memory.ofBytes bs := rfl
@[simp] theorem start_cursor (bs : List Byte) : (State.start bs).cursor = 0 := rfl
@[simp] theorem start_out (bs : List Byte) : (State.start bs).out = [] := rfl

@[simp] theorem input_withState (i : SessionInput) (m : DecodeState) : (i.withState m).input = i := rfl
@[simp] theorem decodeState_withState (i : SessionInput) (m : DecodeState) : (i.withState m).decodeState = m := rfl
@[simp] theorem input_withState_decodeState (s : State) : s.input.withState s.decodeState = s := rfl
@[simp] theorem withToken_input (s : State) (t : Token) : (s.withToken t).input = s.input := rfl

@[simp] theorem reset_len : State.reset.len = 0 := rfl
@[simp] theorem reset_buf : State.reset.buf = [] := rfl
@[simp] theorem reset_cursor : State.reset.cursor = 0 := rfl
@[simp] theorem reset_out : State.reset.out = [] := rfl

end Sys2Proof.Machine
end

