-- ==== Sys2Proof/Laws/Ops.lean ====
section
/-! SUPPORT. What each shared operation can do, said once. -/

namespace Sys2Proof.Machine

/-- The stop test, as a bound on the cursor (46_sequencer.md R95, R120). -/
theorem ended_iff (s : State) : s.ended = true ↔ s.len < s.cursor + 2 := by
  simp [State.ended]; omega

theorem not_ended_iff (s : State) : s.ended = false ↔ s.cursor + 2 ≤ s.len := by
  simp [State.ended]; omega

/-- A fetch answers exactly when two bytes remain, and then with the byte pair at the cursor (R94). -/
theorem fetchWord_eq_some {s : State} {v : Word} :
    fetchWord s = some v ↔
      s.cursor + 2 ≤ s.len ∧ v = fx (Memory.read s.buf s.cursor) (Memory.read s.buf (s.cursor + 1)) := by
  unfold fetchWord fetchOffsets
  by_cases h : s.ended = true
  · have := (ended_iff s).1 h
    simp [h]; omega
  · have := (not_ended_iff s).1 (by simpa using h)
    simp [h, this, eq_comm]

theorem fetchWord_eq_none {s : State} : fetchWord s = none ↔ s.ended = true := by
  unfold fetchWord fetchOffsets
  by_cases h : s.ended = true <;> simp [h]

/-- The one outcome of an instruction's effect (R95). -/
theorem emitToken_next_iff {t : Token} {s s' : State} : emitToken t s = .next s' ↔ s' = s.withToken t := by
  simp [emitToken, State.withToken, advanceCursor, appendToken, eq_comm]

/-- The one outcome of a step of an ended session. -/
theorem endOfSession_next_iff {s s' : State} : endOfSession s = .next s' ↔ s' = s := by
  simp [endOfSession, eq_comm]

/-- A step is the stop, or the meaning of the word at the cursor. -/
theorem step_cases (s : State) :
    (s.ended = true ∧ step s = endOfSession s) ∨
      (∃ v, fetchWord s = some v ∧ step s = exec (classify v) s) := by
  unfold step
  cases h : fetchWord s with
  | none => exact .inl ⟨fetchWord_eq_none.1 h, rfl⟩
  | some v => exact .inr ⟨v, rfl, rfl⟩

/-- Everything the step relation with its inputs as parameters can answer (46_sequencer.md R95). -/
theorem decodeStep_eq_some {i : SessionInput} {m m' : DecodeState} :
    decodeStep i m = some m' ↔
      m.cursor + 2 ≤ i.len ∧
      m' = { cursor := m.cursor + 2
             out := m.out ++ [classify (fx (Memory.read i.buf m.cursor) (Memory.read i.buf (m.cursor + 1)))] } := by
  unfold decodeStep
  by_cases h : i.len - m.cursor ≥ 2
  · rw [if_pos h, Option.some_inj, eq_comm]
    exact (and_iff_right (by omega)).symm
  · rw [if_neg h]
    exact ⟨nofun, fun ⟨h', _⟩ => by omega⟩

theorem decodeStep_eq_none {i : SessionInput} {m : DecodeState} : decodeStep i m = none ↔ i.len < m.cursor + 2 := by
  unfold decodeStep
  by_cases h : i.len - m.cursor ≥ 2
  · rw [if_pos h]
    exact ⟨nofun, fun h' => by omega⟩
  · rw [if_neg h]
    exact iff_of_true rfl (by omega)

/-- A run of a machine, one step at a time. -/
theorem core_run_succ (M : Host.Core) (k : Nat) {s t : M.State} (h : M.step s = .next t) :
    M.run (k + 1) s = M.run k t := by
  simp only [Host.Core.run, h]

@[simp] theorem run_zero (s : State) : run 0 s = .next s := rfl

theorem run_succ (k : Nat) {s t : State} (h : step s = .next t) : run (k + 1) s = run k t :=
  core_run_succ Sys2Proof.core k h

/-- A byte of the buffer, by its reading. -/
theorem readByte_eq_some {s : State} {i : Nat} {b : Byte} :
    s.readByte i = some b ↔ i < s.len ∧ b = Memory.read s.buf i := by
  unfold State.readByte
  by_cases h : i < s.len <;> simp [h, eq_comm]

/-- Placing a word keeps the canonical form. -/
theorem placeWord_wf {s : State} (h : Memory.wf s.buf = true) (v : Word) : Memory.wf (placeWord s v).buf = true :=
  Memory.wf_write (Memory.wf_write h _ _) _ _

/-- The word placed is the word fetched. -/
theorem fetchWord_placeWord {s : State} (h : Memory.wf s.buf = true) (v : Word) :
    fetchWord (placeWord s v) = some v := by
  rw [fetchWord_eq_some]
  refine ⟨by simp, ?_⟩
  have h' := Memory.wf_write h s.cursor (highByte v)
  simp only [placeWord_buf, placeWord_cursor]
  rw [Memory.read_write h', if_neg (by omega), Memory.read_write h, if_pos rfl, Memory.read_write h', if_pos rfl]
  exact (fx_high_low v).symm

/-- The bytes of a started session are the host's. -/
theorem bytes_start (bs : List Byte) : (State.start bs).bytes = bs := by
  refine List.ext_getElem (by simp [State.bytes]) (fun i h _ => ?_)
  have hi : i < bs.length := by simpa [State.bytes] using h
  simp [State.bytes, Memory.read_ofBytes, List.getElem?_eq_getElem hi]

end Sys2Proof.Machine
end

