-- ==== Sys2Proof/Laws/PerInstr.lean ====
section
/-! SUPPORT. The family of statements `TableOperands`, one lemma per constructor of `Instr`. -/

namespace Sys2Proof.Laws

open Sys2Proof.Machine (operandOf Operand)

/-! ## The operands of a word of each shape (30_encoding.md R35) -/

theorem operands_wordA (f : Nibble) (a : Addr) :
    [Field.addr].map (operandOf (wordA f a)) = [Operand.address a] := by
  simp [operandOf]
theorem operands_wordXK (f : Nibble) (x : RegIndex) (kk : Byte) :
    [Field.x, Field.kk].map (operandOf (wordXK f x kk)) = [Operand.register x, Operand.byte kk] := by
  simp [operandOf]
theorem operand_wordXK (f : Nibble) (x : RegIndex) (kk : Byte) :
    [Field.x].map (operandOf (wordXK f x kk)) = [Operand.register x] := by
  simp [operandOf]
theorem operands_wordXYN (f : Nibble) (x y : RegIndex) (n : Nibble) :
    [Field.x, Field.y].map (operandOf (wordXYN f x y n)) = [Operand.register x, Operand.register y] := by
  simp [operandOf]
theorem operands_wordXYN_count (f : Nibble) (x y : RegIndex) (n : Nibble) :
    [Field.x, Field.y, Field.n].map (operandOf (wordXYN f x y n)) =
      [Operand.register x, Operand.register y, Operand.count n] := by
  simp [operandOf]

end Sys2Proof.Laws

namespace Sys2Proof.Laws.TableOperands

/-- The operand fields that the instruction's row of spec/opcode_table.json lists (30_encoding.md section 4), read from the
instruction's encoded word, are the instruction's operands in R13's order (10_state.md R13, 30_encoding.md R32). The row is
found by the variant code. -/
def Statement (i : Instr) : Prop :=
  ((opcodeRows defaultParams ++ [fallbackRow])[i.code]?).map
    (fun r => r.operands.map (Machine.operandOf (encode i))) = some (Machine.operands i)

theorem clearScreen : Statement .clearScreen := rfl
theorem ret : Statement .ret := rfl
theorem jumpToAddress (addr : Addr) : Statement (.jumpToAddress addr) :=
  congrArg some (operands_wordA _ _)
theorem callAddress (addr : Addr) : Statement (.callAddress addr) :=
  congrArg some (operands_wordA _ _)
theorem skipEqualByte (x : RegIndex) (kk : Byte) : Statement (.skipEqualByte x kk) :=
  congrArg some (operands_wordXK _ _ _)
theorem skipNotEqualByte (x : RegIndex) (kk : Byte) : Statement (.skipNotEqualByte x kk) :=
  congrArg some (operands_wordXK _ _ _)
theorem skipEqualRegister (x y : RegIndex) : Statement (.skipEqualRegister x y) :=
  congrArg some (operands_wordXYN _ _ _ _)
theorem loadRegisterByte (x : RegIndex) (kk : Byte) : Statement (.loadRegisterByte x kk) :=
  congrArg some (operands_wordXK _ _ _)
theorem addByte (x : RegIndex) (kk : Byte) : Statement (.addByte x kk) :=
  congrArg some (operands_wordXK _ _ _)
theorem skipNotEqualRegister (x y : RegIndex) : Statement (.skipNotEqualRegister x y) :=
  congrArg some (operands_wordXYN _ _ _ _)
theorem loadIndex (addr : Addr) : Statement (.loadIndex addr) :=
  congrArg some (operands_wordA _ _)
theorem jumpOffset (addr : Addr) : Statement (.jumpOffset addr) :=
  congrArg some (operands_wordA _ _)
theorem randomMask (x : RegIndex) (kk : Byte) : Statement (.randomMask x kk) :=
  congrArg some (operands_wordXK _ _ _)
theorem drawSprite (x y : RegIndex) (n : Count) : Statement (.drawSprite x y n) :=
  congrArg some (operands_wordXYN_count _ _ _ _)
theorem copyRegister (x y : RegIndex) : Statement (.copyRegister x y) :=
  congrArg some (operands_wordXYN _ _ _ _)
theorem orRegister (x y : RegIndex) : Statement (.orRegister x y) :=
  congrArg some (operands_wordXYN _ _ _ _)
theorem andRegister (x y : RegIndex) : Statement (.andRegister x y) :=
  congrArg some (operands_wordXYN _ _ _ _)
theorem xorRegister (x y : RegIndex) : Statement (.xorRegister x y) :=
  congrArg some (operands_wordXYN _ _ _ _)
theorem addRegister (x y : RegIndex) : Statement (.addRegister x y) :=
  congrArg some (operands_wordXYN _ _ _ _)
theorem subtractRegister (x y : RegIndex) : Statement (.subtractRegister x y) :=
  congrArg some (operands_wordXYN _ _ _ _)
theorem shiftRight (x y : RegIndex) : Statement (.shiftRight x y) :=
  congrArg some (operands_wordXYN _ _ _ _)
theorem subtractReversed (x y : RegIndex) : Statement (.subtractReversed x y) :=
  congrArg some (operands_wordXYN _ _ _ _)
theorem shiftLeft (x y : RegIndex) : Statement (.shiftLeft x y) :=
  congrArg some (operands_wordXYN _ _ _ _)
theorem skipKeyPressed (x : RegIndex) : Statement (.skipKeyPressed x) :=
  congrArg some (operand_wordXK _ _ _)
theorem skipKeyNotPressed (x : RegIndex) : Statement (.skipKeyNotPressed x) :=
  congrArg some (operand_wordXK _ _ _)
theorem readDelayTimer (x : RegIndex) : Statement (.readDelayTimer x) :=
  congrArg some (operand_wordXK _ _ _)
theorem writeDelayTimer (x : RegIndex) : Statement (.writeDelayTimer x) :=
  congrArg some (operand_wordXK _ _ _)
theorem writeSoundTimer (x : RegIndex) : Statement (.writeSoundTimer x) :=
  congrArg some (operand_wordXK _ _ _)
theorem waitKey (x : RegIndex) : Statement (.waitKey x) :=
  congrArg some (operand_wordXK _ _ _)
theorem addIndex (x : RegIndex) : Statement (.addIndex x) :=
  congrArg some (operand_wordXK _ _ _)
theorem loadFontAddress (x : RegIndex) : Statement (.loadFontAddress x) :=
  congrArg some (operand_wordXK _ _ _)
theorem storeBcd (x : RegIndex) : Statement (.storeBcd x) :=
  congrArg some (operand_wordXK _ _ _)
theorem storeRegisters (x : RegIndex) : Statement (.storeRegisters x) :=
  congrArg some (operand_wordXK _ _ _)
theorem loadRegisters (x : RegIndex) : Statement (.loadRegisters x) :=
  congrArg some (operand_wordXK _ _ _)
theorem opaqueData (raw : Word) : Statement (.opaqueData raw) := rfl

end Sys2Proof.Laws.TableOperands
end

