-- ==== Sys2Proof/Tests/Slice0.lean ====
section
/-! SUPPORT. Tests and witnesses. The expected results are those of spec/95_test_vectors.md (the section stands beside each
group) or of the rule named; none was read off the model. -/

namespace Sys2Proof.Tests

open Sys2Proof.Machine

/-! ## Well-formedness: the one check, on opaque data -/

theorem test_refuses_clear_screen_word : WellFormed defaultParams (.opaqueData 0x00E0) = false := by decide
theorem test_refuses_single_shape_word : WellFormed defaultParams (.opaqueData 0x1000) = false := by decide
theorem test_refuses_family8_word : WellFormed defaultParams (.opaqueData 0x8120) = false := by decide
theorem test_refuses_familyE_word : WellFormed defaultParams (.opaqueData 0xE09E) = false := by decide
theorem test_refuses_familyF_word : WellFormed defaultParams (.opaqueData 0xF129) = false := by decide
theorem test_accepts_fallback_words :
    ([0x0123, 0x812F, 0xE0A0, 0xF1FF] : List Word).all (fun v => WellFormed defaultParams (.opaqueData v)) = true := by
  decide

/-! ## Every instruction: its word, and one step on it from reset (95_test_vectors.md 1.2, 2.3 to 2.6) -/

/-- What a step left in the output and the cursor. -/
def appended : StepOutcome → Option (List Token × Nat)
  | .next s => some (s.out, s.cursor)
  | .fault _ => none
  | .refused _ => none

/-- The word decodes to the token, and the next step on it, after reset, appends that token and advances the cursor. -/
abbrev RunsAs (w : Nat) (t : Token) : Prop :=
  decodeTableWord 16 w = some t ∧ appended (step (State.reset.withFetchWord 16 w)) = some ([t], 2)

theorem test_clearScreen : RunsAs 0x00E0 .clearScreen := by decide
theorem test_ret : RunsAs 0x00EE .ret := by decide
theorem test_jumpToAddress : RunsAs 0x1ABC (.jumpToAddress 0xABC) := by decide
theorem test_callAddress : RunsAs 0x2ABC (.callAddress 0xABC) := by decide
theorem test_skipEqualByte : RunsAs 0x3A42 (.skipEqualByte 10 0x42) := by decide
theorem test_skipNotEqualByte : RunsAs 0x4B00 (.skipNotEqualByte 11 0x00) := by decide
theorem test_skipEqualRegister : RunsAs 0x5AB0 (.skipEqualRegister 10 11) := by decide
theorem test_loadRegisterByte : RunsAs 0x6A3F (.loadRegisterByte 10 0x3F) := by decide
theorem test_addByte : RunsAs 0x7101 (.addByte 1 0x01) := by decide
theorem test_skipNotEqualRegister : RunsAs 0x9120 (.skipNotEqualRegister 1 2) := by decide
theorem test_loadIndex : RunsAs 0xA22A (.loadIndex 0x22A) := by decide
theorem test_jumpOffset : RunsAs 0xB300 (.jumpOffset 0x300) := by decide
theorem test_randomMask : RunsAs 0xC1FF (.randomMask 1 0xFF) := by decide
theorem test_drawSprite : RunsAs 0xD015 (.drawSprite 0 1 5) := by decide
theorem test_copyRegister : RunsAs 0x8120 (.copyRegister 1 2) := by decide
theorem test_orRegister : RunsAs 0x8121 (.orRegister 1 2) := by decide
theorem test_andRegister : RunsAs 0x8122 (.andRegister 1 2) := by decide
theorem test_xorRegister : RunsAs 0x8123 (.xorRegister 1 2) := by decide
theorem test_addRegister : RunsAs 0x8124 (.addRegister 1 2) := by decide
theorem test_subtractRegister : RunsAs 0x8125 (.subtractRegister 1 2) := by decide
theorem test_shiftRight : RunsAs 0x8F06 (.shiftRight 15 0) := by decide
theorem test_subtractReversed : RunsAs 0x8217 (.subtractReversed 2 1) := by decide
theorem test_shiftLeft : RunsAs 0x80FE (.shiftLeft 0 15) := by decide
theorem test_skipKeyPressed : RunsAs 0xE19E (.skipKeyPressed 1) := by decide
theorem test_skipKeyNotPressed : RunsAs 0xE2A1 (.skipKeyNotPressed 2) := by decide
theorem test_readDelayTimer : RunsAs 0xF307 (.readDelayTimer 3) := by decide
theorem test_writeDelayTimer : RunsAs 0xF315 (.writeDelayTimer 3) := by decide
theorem test_writeSoundTimer : RunsAs 0xF318 (.writeSoundTimer 3) := by decide
theorem test_waitKey : RunsAs 0xF30A (.waitKey 3) := by decide
theorem test_addIndex : RunsAs 0xF31E (.addIndex 3) := by decide
theorem test_loadFontAddress : RunsAs 0xF129 (.loadFontAddress 1) := by decide
theorem test_storeBcd : RunsAs 0xF333 (.storeBcd 3) := by decide
theorem test_storeRegisters : RunsAs 0xF355 (.storeRegisters 3) := by decide
theorem test_loadRegisters : RunsAs 0xF365 (.loadRegisters 3) := by decide
theorem test_opaqueData : RunsAs 0x812F (.opaqueData 0x812F) := by decide

/-! ## The neighbours of the selected words (95_test_vectors.md 2.1 to 2.6) -/

/-- Every word of the list is opaque data, with the whole word. -/
abbrev AllOpaque (vs : List Word) : Prop := vs.map classify = vs.map .opaqueData

theorem test_family0_neighbours :
    AllOpaque [0x0000, 0x0001, 0x00DF, 0x00E1, 0x00ED, 0x00EF, 0x00FF, 0x01E0, 0x01EE, 0x0200, 0x0E00, 0x0EE0, 0x0FEE,
      0x0FFF] := by decide
theorem test_family8_neighbours :
    AllOpaque [0x8128, 0x8129, 0x812A, 0x812B, 0x812C, 0x812D, 0x8FFF, 0x8008, 0x81BD] := by decide
theorem test_familyE_neighbours :
    AllOpaque [0xE000, 0xE09D, 0xE09F, 0xE0A0, 0xE0A2, 0xE19F, 0xE1E9, 0xE01A, 0xEFFF] := by decide
theorem test_familyF_neighbours :
    AllOpaque [0xF306, 0xF308, 0xF309, 0xF30B, 0xF314, 0xF316, 0xF317, 0xF319, 0xF31D, 0xF31F, 0xF328, 0xF32A, 0xF332,
      0xF334, 0xF354, 0xF356, 0xF364, 0xF366, 0xF000, 0xF0FF, 0xFFFF, 0xF075, 0xFF81] := by decide
theorem test_ignored_low_nibble :
    ([0x5120, 0x5121, 0x512F] : List Word).map classify = List.replicate 3 (.skipEqualRegister 1 2) ∧
    ([0x9AB0, 0x9AB1, 0x9ABF] : List Word).map classify = List.replicate 3 (.skipNotEqualRegister 10 11) := by decide
theorem test_draw_count_of_zero : classify 0xD120 = .drawSprite 1 2 0 := by decide
theorem test_encode_clears_the_ignored_nibble :
    encode (classify 0x512F) = 0x5120 ∧ encode (classify 0xDFFF) = 0xDFFF := by decide

/-! ## The fields (95_test_vectors.md 2.1) -/

theorem test_fields_of_A5C3 :
    family 0xA5C3 = 10 ∧ fieldX 0xA5C3 = 5 ∧ fieldY 0xA5C3 = 12 ∧ fieldN 0xA5C3 = 3 ∧ fieldKK 0xA5C3 = 0xC3 ∧
    fieldAddr 0xA5C3 = 0x5C3 := by decide

/-! ## Sessions (95_test_vectors.md 2.8) -/

theorem test_big_endian :
    decodeSession [0x00, 0xE0] = [.clearScreen] ∧ decodeSession [0xE0, 0x00] = [.opaqueData 0xE000] := by decide
theorem test_decoder_rejects :
    decodeBytes [] = .rejected .endOfBuffer ∧ decodeBytes [0x6A] = .rejected .oddTrailingByte := by decide
theorem test_odd_trailing_byte :
    decodeSession [0x6A, 0x3F, 0x1A] = [.loadRegisterByte 10 0x3F] ∧
    decodeSession [0xFF, 0xFF, 0xFF] = [.opaqueData 0xFFFF] := by decide
theorem test_shift_by_one_byte : decodeSession [0x3F, 0x1A, 0xBC] = [.skipEqualByte 15 0x1A] := by decide
theorem test_jump_is_not_followed :
    appended (step (State.start [0x12, 0x00, 0x00, 0xEE])) = some ([.jumpToAddress 0x200], 2) := by decide
theorem test_ended_session_stays :
    appended (step (State.start [0x6A])) = some ([], 0) ∧ appended (step State.reset) = some ([], 0) := by decide
theorem test_hand_over :
    (State.start [0x00, 0xE0]).handOver = none ∧ (State.start [0x6A]).handOver = some [] := by decide

/-! ## The buffer's form (log entry 2) -/

theorem test_zero_is_not_listed :
    Memory.ofBytes [0x00, 0xE0, 0x00, 0xEE] = [(1, 0xE0), (3, 0xEE)] ∧
    Memory.write [(1, 0xE0)] 1 0x00 = [] ∧ Memory.wf [(3, 0xEE), (1, 0xE0)] = false := by decide

/-! ## Rendering (95_test_vectors.md 2.9) -/

theorem test_render_register :
    renderRegister 0 = "V0".toList ∧ renderRegister 9 = "V9".toList ∧ renderRegister 15 = "V15".toList := by decide
theorem test_render_byte :
    renderByte 0x0A = "0x0a".toList ∧ renderByte 0x3F = "0x3f".toList ∧ renderByte 0xFF = "0xff".toList := by decide
theorem test_render_opaque_word :
    renderOpaque { lead := "0x".toList, upperCase := false, minDigits := 4 } 0x0123 = "0x0123".toList ∧
    renderOpaque { lead := "".toList, upperCase := true, minDigits := 1 } 0x00AB = "AB".toList ∧
    renderOpaque { lead := "".toList, upperCase := false, minDigits := 2 } 0x0000 = "00".toList := by decide
theorem test_render_address :
    renderAddress 0 = "$0".toList ∧ renderAddress 0x200 = "$512".toList ∧ renderAddress 0xABC = "$2748".toList := by decide

/-! ## Witnesses: what meets the hypotheses of the statements of Certificates/Slice0/Obligations.lean

The statements are named in the docstrings. The premise `p.Admissible` is met by `defaultParams_admissible` (Laws/Classify.lean)
and by a second choice here, so it is not the defaults under another name. -/

/-- Another choice of the open parameters. -/
def otherParams : Params :=
  { defaultParams with
    shape2 := .drawSprite, shapeD := .callAddress, sel8Or := 0x8, sel8Shl := 0xB, selESkp := 0xA1, selESknp := 0xFF,
    selFLoad := 0x00 }

theorem witness_other_admissible : otherParams.Admissible ∧ otherParams ≠ defaultParams := by decide

/-- FamilyZeroComparesTheWholeWord, third clause: the first and last words and the neighbours of the two matches. -/
theorem witness_family_zero_unmatched :
    ∀ v ∈ ([0x0000, 0x00DF, 0x00E1, 0x00ED, 0x00EF, 0x0FFF] : List Word),
      family v = 0x0 ∧ v ≠ 0x00E0 ∧ v ≠ 0x00EE := by simp [family]

/-- SingleShapeFamiliesSelectByFamilyAlone: words of the outermost such families. -/
theorem witness_single_shape_families :
    ∀ v ∈ ([0x1000, 0x7FFF, 0x9000, 0xDFFF] : List Word), (family v).toNat ∉ [0x0, 0x8, 0xE, 0xF] := by simp [family]

/-- FamilyEightSelectsByLowNibble, FamilyESelectsByLowByte, FamilyFSelectsByLowByte: the fallback clauses, for both choices of
the parameters. -/
theorem witness_unmatched_selectors :
    ∀ p ∈ [defaultParams, otherParams],
      (family 0x812F = 0x8 ∧ fieldN 0x812F ∉ p.selectors8) ∧
      (family 0xE0A0 = 0xE ∧ fieldKK 0xE0A0 ≠ p.selESkp ∧ fieldKK 0xE0A0 ≠ p.selESknp) ∧
      (family 0xF1FF = 0xF ∧ fieldKK 0xF1FF ∉ p.selectorsF) := by decide

/-- DefaultSelectorsSelectTheUsualInstructions: the low bytes beside the selectors, and the outermost ones. -/
theorem witness_unlisted_low_bytes :
    (∀ k ∈ ([0x00, 0x9D, 0x9F, 0xA0, 0xA2, 0xFF] : List Byte), k ∉ ([0x9E, 0xA1] : List Byte)) ∧
    (∀ k ∈ ([0x00, 0x06, 0x08, 0x09, 0x0B, 0x28, 0x2A, 0x64, 0x66, 0xFF] : List Byte),
      k ∉ ([0x07, 0x0A, 0x15, 0x18, 0x1E, 0x29, 0x33, 0x55, 0x65] : List Byte)) := by simp

/-- FallbackTakesExactlyTheUnmatchedWords: a word of each of the four families. -/
theorem witness_opaque_words :
    ([0x0123, 0x812F, 0xE0A0, 0xF1FF] : List Word).all (fun v => (classifyWith defaultParams v).isOpaque) = true ∧
    classifyWith defaultParams 0x0123 = .opaqueData 0x0123 := by decide

/-- OnlyTheLowNibbleOfFamiliesFiveAndNineIsIgnored, second clause: two words with one token, in either family. -/
theorem witness_words_with_one_token :
    (classify 0x5120 = classify 0x512F ∧ (0x5120 : Word) ≠ 0x512F) ∧
    (classify 0x9AB0 = classify 0x9ABF ∧ (0x9AB0 : Word) ≠ 0x9ABF) := by decide

/-- EncodedInstructionDecodesBack: well-formed instructions, operands at their ends, for both choices. -/
theorem witness_well_formed :
    ∀ p ∈ [defaultParams, otherParams],
      WellFormed p (.drawSprite 15 15 15) = true ∧ WellFormed p (.callAddress 0) = true ∧
      WellFormed p (.opaqueData 0x0FFF) = true ∧ WellFormed p (.opaqueData 0xFFFF) = true := by decide

/-- EveryInstructionLeavesTheRestUnchanged: a jump completes in an ended session's state too. -/
theorem witness_exec_next : ∃ t, exec (.jumpToAddress 0xFFF) State.reset = .next t := ⟨_, rfl⟩

/-- FetchReadsThePairBigEndian and StepAppendsTheClassifiedWord, the first clauses: exactly two bytes remain. -/
theorem witness_two_bytes_remain :
    (State.start [0x6A, 0x3F]).len - (State.start [0x6A, 0x3F]).cursor ≥ 2 ∧
    (0x6A3F : Word).toNat =
      (Memory.read (State.start [0x6A, 0x3F]).buf (State.start [0x6A, 0x3F]).cursor).toNat * 256 +
        (Memory.read (State.start [0x6A, 0x3F]).buf ((State.start [0x6A, 0x3F]).cursor + 1)).toNat := by decide

/-- FetchReadsThePairBigEndian and StepAppendsTheClassifiedWord, the second clauses: one byte remains, and none. -/
theorem witness_fewer_than_two_remain :
    ((State.start [0x6A]).len - (State.start [0x6A]).cursor < 2 ∧ ∃ t, step (State.start [0x6A]) = .next t) ∧
    (State.reset.len - State.reset.cursor < 2 ∧ ∃ t, step State.reset = .next t) :=
  ⟨⟨by decide, _, rfl⟩, by decide, _, rfl⟩

/-- StepRunsTheDecodedInstruction: the first clause, and the second with either rejection. -/
theorem witness_decoded_remaining :
    decodeBytes (State.start [0x6A, 0x3F, 0x1A]).remaining = .instr (.loadRegisterByte 10 0x3F) [0x1A] ∧
    decodeBytes (State.start [0x6A]).remaining = .rejected .oddTrailingByte ∧
    decodeBytes State.reset.remaining = .rejected .endOfBuffer := by decide

/-- StepOnSecondaryDispatchFamilies and StepOnSingleShapeFamilies: every word stands at the cursor of some state. -/
theorem witness_fetched_word (v : Word) : fetchWord (State.start (wordBytes v)) = some v := by
  rw [fetchWord_eq_some]
  exact ⟨Nat.le_refl 2, by simp [wordBytes, Memory.read_ofBytes]⟩

/-- StepOnSecondaryDispatchFamilies: a word for each clause, the unmatched ones at the ends of their ranges. -/
theorem witness_secondary_clauses :
    (∀ v ∈ ([0x0000, 0x00DF, 0x00E1, 0x00ED, 0x00EF, 0x0FFF] : List Word), family v = 0x0 ∧ v ≠ 0x00E0 ∧ v ≠ 0x00EE) ∧
    ([0x8000, 0x8FF1, 0x8002, 0x8FF3, 0x8004, 0x8FF5, 0x8006, 0x8FF7, 0x800E] : List Word).map
        (fun v => (family v, fieldN v)) =
      [(0x8, 0x0), (0x8, 0x1), (0x8, 0x2), (0x8, 0x3), (0x8, 0x4), (0x8, 0x5), (0x8, 0x6), (0x8, 0x7), (0x8, 0xE)] ∧
    (∀ v ∈ ([0x8008, 0x8FFD, 0x8FFF] : List Word), family v = 0x8 ∧ (fieldN v).toNat ∈ [8, 9, 10, 11, 12, 13, 15]) ∧
    ([0xE09E, 0xEFA1] : List Word).map (fun v => (family v, fieldKK v)) = [(0xE, 0x9E), (0xE, 0xA1)] ∧
    (∀ v ∈ ([0xE000, 0xE09D, 0xE09F, 0xE0A0, 0xEFA2, 0xEFFF] : List Word),
      family v = 0xE ∧ fieldKK v ∉ ([0x9E, 0xA1] : List Byte)) ∧
    ([0xF007, 0xFF15, 0xF018, 0xFF0A, 0xF01E, 0xFF29, 0xF033, 0xFF55, 0xF065] : List Word).map
        (fun v => (family v, fieldKK v)) =
      [(0xF, 0x07), (0xF, 0x15), (0xF, 0x18), (0xF, 0x0A), (0xF, 0x1E), (0xF, 0x29), (0xF, 0x33), (0xF, 0x55), (0xF, 0x65)] ∧
    (∀ v ∈ ([0xF000, 0xF006, 0xF066, 0xFF28, 0xFFFF] : List Word),
      family v = 0xF ∧ fieldKK v ∉ ([0x07, 0x0A, 0x15, 0x18, 0x1E, 0x29, 0x33, 0x55, 0x65] : List Byte)) := by simp [family, fieldN, fieldKK]

/-- StepOnSingleShapeFamilies: a word for each clause. -/
theorem witness_single_shape_clauses :
    ([0x1000, 0x2FFF, 0x3000, 0x4FFF, 0x5000, 0x6FFF, 0x7000, 0x9FFF, 0xA000, 0xBFFF, 0xC000, 0xDFFF] : List Word).map
        family =
      [0x1, 0x2, 0x3, 0x4, 0x5, 0x6, 0x7, 0x9, 0xA, 0xB, 0xC, 0xD] := by decide

/-- A session of three bytes after its one step. -/
def afterOneStep : State := { State.start [0x00, 0xE0, 0x6A] with cursor := 2, out := [.clearScreen] }

/-- SessionEndsWhenFewerThanTwoBytesRemain, StepKeepsTheSessionInvariant, SessionStateIsDeterminedByItsBytes: the invariant holds
in a running session ... -/
theorem witness_inv_running : SessionInv (State.start [0x00, 0xE0, 0x6A]) where
  buffer_canonical := by decide
  buffer_within := by decide
  cursor_le_len := by decide
  cursor_eq_twice_out := by decide
  out_is_prefix := by decide

/-- ... and in an ended one, one byte before the end of its buffer, ... -/
theorem witness_inv_ended : SessionInv afterOneStep ∧ afterOneStep.ended = true ∧ afterOneStep.cursor + 1 = afterOneStep.len :=
  ⟨{ buffer_canonical := by decide
     buffer_within := by decide
     cursor_le_len := by decide
     cursor_eq_twice_out := by decide
     out_is_prefix := by decide }, by decide, by decide⟩

/-- ... (SessionEndsWhenFewerThanTwoBytesRemain, the last clause: a run from it), ... -/
theorem witness_ended_run : ∃ t, run 3 afterOneStep = .next t := ⟨_, rfl⟩

/-- ... and the step between the two. -/
theorem witness_step_next : step (State.start [0x00, 0xE0, 0x6A]) = .next afterOneStep := rfl

/-- TokenDependsOnItsTwoBytesOnly: two buffers that differ behind the two bytes at the cursor. -/
theorem witness_two_buffers :
    (State.start [0x00, 0xE0, 0x12, 0x34]).readByte 0 = (State.start [0x00, 0xE0, 0xFF, 0xFF]).readByte 0 ∧
    (State.start [0x00, 0xE0, 0x12, 0x34]).readByte 1 = (State.start [0x00, 0xE0, 0xFF, 0xFF]).readByte 1 ∧
    (State.start [0x00, 0xE0, 0x12, 0x34]).buf ≠ (State.start [0x00, 0xE0, 0xFF, 0xFF]).buf ∧
    (∃ t, step (State.start [0x00, 0xE0, 0x12, 0x34]) = .next t) ∧
    (∃ t, step (State.start [0x00, 0xE0, 0xFF, 0xFF]) = .next t) :=
  ⟨by decide, by decide, by decide, ⟨_, rfl⟩, ⟨_, rfl⟩⟩

/-- SessionLengthLaw, HostGetsTheDecodedBufferAtTheEnd, RunKeepsTheBufferAndExtendsTheOutput: runs one step short of the end,
to the end and past it; and the buffers of even length at the ends of the range, EachPairDecodesOnItsOwn's too. -/
theorem witness_runs :
    run 0 (State.start [0x00, 0xE0, 0x6A]) = .next (State.start [0x00, 0xE0, 0x6A]) ∧
    run 1 (State.start [0x00, 0xE0, 0x6A]) = .next afterOneStep ∧
    run 2 (State.start [0x00, 0xE0, 0x6A]) = .next afterOneStep ∧
    ([] : List Byte).length % 2 = 0 ∧ ([0x00, 0xE0] : List Byte).length % 2 = 0 := ⟨rfl, rfl, rfl, rfl, rfl⟩

/-- NoByteMovesTheCursor: the same steps over another buffer. -/
theorem witness_run_over_another_buffer :
    (∃ t, run 1 (State.start [0x00, 0xE0, 0x6A]) = .next t) ∧
    (∃ t, run 1 { State.start [0x00, 0xE0, 0x6A] with buf := Memory.ofBytes [0x1A, 0xBC, 0x00] } = .next t) :=
  ⟨⟨_, rfl⟩, ⟨_, rfl⟩⟩

/-- WBitCursorRegisterNeverWraps: the longest buffer of a two-bit register, with `witness_inv_running` and
`witness_step_next`. -/
theorem witness_two_bit_register :
    (State.start [0x00, 0xE0, 0x6A]).len + 1 = 2 ^ 2 ∧ (State.start [0x00, 0xE0, 0x6A]).ended = false := by decide

/-- StepIsDecodeStepWithItsInputsAsParameters: a step, none, and a step of the machine. -/
theorem witness_decode_step :
    (∃ m, decodeStep (State.start [0x00, 0xE0]).input (State.start [0x00, 0xE0]).decodeState = some m) ∧
    decodeStep (State.start [0x6A]).input (State.start [0x6A]).decodeState = none ∧
    (∃ t, step (State.start [0x00, 0xE0]) = .next t) := ⟨⟨_, rfl⟩, rfl, ⟨_, rfl⟩⟩

/-- PlacedWordIsTheNextOneRun: the buffer of the state after reset, and a full one. -/
theorem witness_canonical_buffers :
    Memory.wf State.reset.buf = true ∧ Memory.wf (State.start [0x12, 0x00, 0x34]).buf = true := by decide

end Sys2Proof.Tests
end

/-! PROOFS of the statements about the state, the step and the table: first what a step, the invariant and a run are, then
the rows of the opcode table and the words they take. Each part ends with the statements it settles. -/

/-! ## The step, once for all: what it answers -/

namespace Sys2Proof.Machine

/-- The word at the cursor, high byte first (46_sequencer.md R94). -/
def State.cursorWord (s : State) : Word := fx (Memory.read s.buf s.cursor) (Memory.read s.buf (s.cursor + 1))

theorem fetchWord_of_running {s : State} (h : s.ended = false) : fetchWord s = some s.cursorWord :=
  fetchWord_eq_some.2 ⟨(not_ended_iff s).1 h, rfl⟩

/-- The 35 meanings are one: each arm of `exec` emits its own instruction as the token (R95, R101). -/
theorem exec_eq_emitToken (i : Instr) (s : State) : exec i s = emitToken i s := by
  cases i <;> rfl

theorem exec_next_iff {i : Instr} {s t : State} : exec i s = .next t ↔ t = s.withToken i := by
  rw [exec_eq_emitToken, emitToken_next_iff]

theorem step_of_ended {s : State} (h : s.ended = true) : step s = .next s := by
  simp only [step, fetchWord_eq_none.2 h, endOfSession]

theorem step_of_running {s : State} (h : s.ended = false) :
    step s = .next (s.withToken (classify s.cursorWord)) := by
  simp only [step, fetchWord_of_running h]
  exact exec_next_iff.2 rfl

/-- Everything a step can do: stand still at the end, or append the token of the word at the cursor (R95, R96). -/
theorem step_next_cases {s t : State} (h : step s = .next t) :
    (s.ended = true ∧ t = s) ∨ (s.ended = false ∧ t = s.withToken (classify s.cursorWord)) := by
  cases hs : s.ended with
  | true =>
    rw [step_of_ended hs] at h
    exact .inl ⟨rfl, (Host.Outcome.next.inj h).symm⟩
  | false =>
    rw [step_of_running hs] at h
    exact .inr ⟨rfl, (Host.Outcome.next.inj h).symm⟩

/-- A step has one outcome, the next state (60_exceptions.md R102). -/
theorem step_total (s : State) : ∃ t, step s = .next t := by
  cases hs : s.ended with
  | true => exact ⟨s, step_of_ended hs⟩
  | false => exact ⟨_, step_of_running hs⟩

/-- The frame of a step: the session's inputs (R8, R27). -/
theorem step_next_input {s t : State} (h : step s = .next t) : t.input = s.input := by
  obtain ⟨_, rfl⟩ | ⟨_, rfl⟩ := step_next_cases h
  · rfl
  · exact withToken_input s _

/-! ## The session invariant -/

@[simp] theorem withToken_decoded (s : State) (t : Token) : (s.withToken t).decoded = s.decoded := rfl

theorem decoded_getElem? {s : State} {k : Nat} (h : k < s.len / 2) : s.decoded[k]? = some (classify (s.wordAt k)) := by
  simp [State.decoded, List.getElem?_range h]

/-- The invariant puts the cursor on the word whose number is the length of the output (20_memory.md R20). -/
theorem SessionInv.cursorWord_eq_wordAt {s : State} (inv : SessionInv s) :
    s.cursorWord = s.wordAt s.out.length := by
  rw [State.cursorWord, State.wordAt, inv.cursor_eq_twice_out]

theorem SessionInv.cursor_even {s : State} (inv : SessionInv s) : s.cursor % 2 = 0 := by
  rw [inv.cursor_eq_twice_out, Nat.mul_mod_right]

/-- The next token of a running session is the next one of `decode(buf)` (R11). -/
theorem SessionInv.withToken_cursorWord {s : State} (inv : SessionInv s) (h : s.ended = false) :
    SessionInv (s.withToken (classify s.cursorWord)) := by
  have hroom : s.cursor + 2 ≤ s.len := (not_ended_iff s).1 h
  have hcur : s.cursor = 2 * s.out.length := inv.cursor_eq_twice_out
  have hnext : s.decoded[s.out.length]? = some (classify s.cursorWord) := by
    rw [inv.cursorWord_eq_wordAt, decoded_getElem? (by omega)]
  exact
    { buffer_canonical := inv.buffer_canonical
      buffer_within := inv.buffer_within
      cursor_le_len := hroom
      cursor_eq_twice_out := by
        simp only [withToken_cursor, withToken_out, List.length_append, List.length_singleton]
        omega
      out_is_prefix := by
        simp only [withToken_out, withToken_decoded, List.length_append, List.length_singleton]
        rw [List.take_add_one, hnext, ← inv.out_is_prefix]
        rfl }

theorem SessionInv.of_step {s t : State} (inv : SessionInv s) (h : step s = .next t) : SessionInv t := by
  obtain ⟨_, rfl⟩ | ⟨hrun, rfl⟩ := step_next_cases h
  · exact inv
  · exact inv.withToken_cursorWord hrun

theorem sessionInv_start (bs : List Byte) : SessionInv (State.start bs) where
  buffer_canonical := Memory.wf_ofBytes bs
  buffer_within c hc := by simpa using Memory.ofBytesFrom_within 0 bs c hc
  cursor_le_len := Nat.zero_le _
  cursor_eq_twice_out := rfl
  out_is_prefix := rfl

/-! ## A state from its bytes -/

@[simp] theorem bytes_length (s : State) : s.bytes.length = s.len := by simp [State.bytes]

theorem bytes_getElem? (s : State) (i : Nat) : s.bytes[i]? = s.readByte i := by
  by_cases h : i < s.len <;> simp [State.bytes, State.readByte, h]

/-- An offset that no cell has reads as unlisted. -/
theorem Memory.read_of_not_listed {m : Memory} {a : Nat} (h : ∀ c ∈ m, c.1 ≠ a) :
    Memory.read m a = unlistedByte := by
  induction m with
  | nil => rfl
  | cons c m ih =>
    rw [Memory.read_cons, if_neg (h c List.mem_cons_self), ih fun d hd => h d (List.mem_cons_of_mem c hd)]

/-- Behind the buffer nothing is listed. -/
theorem SessionInv.read_beyond {s : State} (inv : SessionInv s) {a : Nat} (h : s.len ≤ a) :
    Memory.read s.buf a = unlistedByte :=
  Memory.read_of_not_listed fun c hc => by
    have := inv.buffer_within c hc
    omega

/-- The bytes of a session are its inputs, written down in one way only (log entry 2). -/
theorem SessionInv.input_eq_of_bytes_eq {s t : State} (invs : SessionInv s) (invt : SessionInv t)
    (h : s.bytes = t.bytes) : s.len = t.len ∧ s.buf = t.buf := by
  have hlen : s.len = t.len := by rw [← bytes_length s, h, bytes_length]
  refine ⟨hlen, Memory.ext_read invs.buffer_canonical invt.buffer_canonical fun i => ?_⟩
  by_cases hi : i < s.len
  · have hbyte : s.readByte i = t.readByte i := by rw [← bytes_getElem?, h, bytes_getElem?]
    simpa [State.readByte, hi, hlen ▸ hi] using hbyte
  · rw [invs.read_beyond (by omega), invt.read_beyond (by omega)]

/-- The output of a session is as much of `decode(buf)` as the cursor says (R9, R11). -/
theorem SessionInv.out_eq_take_decoded {s : State} (inv : SessionInv s) : s.out = s.decoded.take (s.cursor / 2) := by
  rw [inv.cursor_eq_twice_out, Nat.mul_div_cancel_left _ Nat.two_pos]
  exact inv.out_is_prefix

/-- `decode(buf)` is a function of the session's inputs. -/
theorem decoded_congr {s t : State} (hlen : s.len = t.len) (hbuf : s.buf = t.buf) : s.decoded = t.decoded := by
  simp only [State.decoded, State.wordAt, hlen, hbuf]

theorem State.ext_fields {s t : State} (hlen : s.len = t.len) (hbuf : s.buf = t.buf) (hcur : s.cursor = t.cursor)
    (hout : s.out = t.out) : s = t := by
  cases s; cases t
  exact (State.mk.injEq ..).mpr ⟨hlen, hbuf, hcur, hout⟩

/-! ## The token and the two bytes at the cursor -/

/-- Two sessions at the same place of buffers of the same length have ended or not alike. -/
theorem ended_congr {s s' : State} (hcur : s.cursor = s'.cursor) (hlen : s.len = s'.len) : s.ended = s'.ended := by
  rw [State.ended, State.ended, hcur, hlen]

theorem read_eq_of_readByte_eq {s s' : State} {i : Nat} (hi : i < s.len) (h : s.readByte i = s'.readByte i) :
    Memory.read s.buf i = Memory.read s'.buf i :=
  (readByte_eq_some.1 (h.symm.trans (readByte_eq_some.2 ⟨hi, rfl⟩))).2

/-! ## Runs -/

/-- A run of `k + 1` steps is a step and a run of `k` from what it answers. -/
theorem run_succ_next {k : Nat} {s t : State} (h : run (k + 1) s = .next t) :
    ∃ u, step s = .next u ∧ run k u = .next t := by
  obtain ⟨u, hu⟩ := step_total s
  exact ⟨u, hu, run_succ k hu ▸ h⟩

/-- A step adds at most one token, and moves the cursor by 2 for each it adds (R9, R11). -/
theorem step_next_extends_out {s t : State} (h : step s = .next t) :
    ∃ ts, t.out = s.out ++ ts ∧ ts.length ≤ 1 ∧ t.cursor = s.cursor + 2 * ts.length := by
  obtain ⟨_, rfl⟩ | ⟨_, rfl⟩ := step_next_cases h
  · exact ⟨[], by simp⟩
  · exact ⟨[classify s.cursorWord], by simp⟩

theorem run_next_extends_out {k : Nat} {s t : State} (h : run k s = .next t) :
    ∃ ts, t.out = s.out ++ ts ∧ ts.length ≤ k ∧ t.cursor = s.cursor + 2 * ts.length := by
  induction k generalizing s with
  | zero =>
    obtain rfl : s = t := Host.Outcome.next.inj h
    exact ⟨[], by simp⟩
  | succ k ih =>
    obtain ⟨u, hstep, hrun⟩ := run_succ_next h
    obtain ⟨ts, hout, hlen, hcur⟩ := step_next_extends_out hstep
    obtain ⟨ts', hout', hlen', hcur'⟩ := ih hrun
    refine ⟨ts ++ ts', by rw [hout', hout, List.append_assoc], ?_, ?_⟩ <;> rw [List.length_append] <;> omega

/-- What every step keeps, every run keeps. -/
theorem run_keeps {P : State → Prop} (hP : ∀ u u', P u → step u = .next u' → P u') {k : Nat}
    {s t : State} (hs : P s) (h : run k s = .next t) : P t := by
  induction k generalizing s with
  | zero => exact Host.Outcome.next.inj h ▸ hs
  | succ k ih =>
    obtain ⟨u, hstep, hrun⟩ := run_succ_next h
    exact ih (hP s u hs hstep) hrun

/-- The frame of a run: the session's inputs (R27). -/
theorem run_next_input {k : Nat} {s t : State} (h : run k s = .next t) : t.input = s.input :=
  run_keeps (P := fun u => u.input = s.input) (fun _ _ hu hstep => (step_next_input hstep).trans hu) rfl h

/-! ## A cursor register of `W` bits -/

theorem toNat_cursorRegister {W : Nat} {s : State} (h : s.cursor < 2 ^ W) : (cursorRegister W s).toNat = s.cursor := by
  rw [cursorRegister, BitVec.toNat_ofNat, Nat.mod_eq_of_lt h]

/-- The stop test on registers is R96's, as the difference borrows nothing. -/
theorem endedRegister_eq {W : Nat} {s : State} (hlen : s.len < 2 ^ W) (hcur : s.cursor ≤ s.len) :
    endedRegister W s = s.ended := by
  have hreg : (cursorRegister W s).toNat = s.cursor := toNat_cursorRegister (hcur.trans_lt hlen)
  have hlenReg : (BitVec.ofNat W s.len).toNat = s.len := by rw [BitVec.toNat_ofNat, Nat.mod_eq_of_lt hlen]
  have hle : cursorRegister W s ≤ BitVec.ofNat W s.len := by rw [BitVec.le_def, hreg, hlenReg]; exact hcur
  rw [endedRegister, State.ended, BitVec.toNat_sub_of_le hle, hreg, hlenReg]

/-- The register's `+ 2` is the cursor's, modulo `2 ^ W`. -/
theorem cursorRegister_add_two {W : Nat} {s t : State} (h : t.cursor = s.cursor + 2) :
    cursorRegister W t = cursorRegister W s + BitVec.ofNat W 2 := by
  rw [cursorRegister, cursorRegister, h, BitVec.ofNat_add]

end Sys2Proof.Machine

/-! ## The statements about the state and the step -/

section
open Sys2Proof Sys2Proof.Machine

/-- Settles O40: a step stands still or appends the next token of `decode(buf)`. -/
theorem stepKeepsTheSessionInvariant : Obligations.StepKeepsTheSessionInvariant :=
  fun _ _ inv h => ⟨inv.of_step h, (inv.of_step h).cursor_even⟩

/-- Settles O28: every instruction's effect is `State.withToken`. -/
theorem everyInstructionLeavesTheRestUnchanged : Obligations.EveryInstructionLeavesTheRestUnchanged := by
  intro i s t h
  obtain rfl := exec_next_iff.1 h
  exact ⟨rfl, fun _ => rfl, by simp, by simp, by simp, rfl⟩

/-- Settles O36: where a session runs on, the word at the cursor is made of the two bytes. -/
theorem tokenDependsOnItsTwoBytesOnly : Obligations.TokenDependsOnItsTwoBytesOnly := by
  intro s s' t t' hcur hlen hout hhi hlo hstep hstep'
  have hended : s.ended = s'.ended := ended_congr hcur hlen
  obtain ⟨he, rfl⟩ | ⟨hr, rfl⟩ := step_next_cases hstep
  · obtain ⟨_, rfl⟩ | ⟨hr', _⟩ := step_next_cases hstep'
    · exact ⟨hout, hcur⟩
    · exact absurd (he.symm.trans (hended.trans hr')) (by decide)
  · obtain ⟨he', _⟩ | ⟨_, rfl⟩ := step_next_cases hstep'
    · exact absurd (hr.symm.trans (hended.trans he')) (by decide)
    · have hroom : s.cursor + 2 ≤ s.len := (not_ended_iff s).1 hr
      have hword : s.cursorWord = s'.cursorWord := by
        rw [State.cursorWord, State.cursorWord, read_eq_of_readByte_eq (by omega) hhi,
          read_eq_of_readByte_eq (by omega) hlo, hcur]
      simp only [withToken_out, withToken_cursor, hword, hout, hcur, and_self]

/-- Settles O37: the canonical cells of the host's bytes read back as those bytes. -/
theorem sessionStartsOverTheHostsBytes : Obligations.SessionStartsOverTheHostsBytes :=
  fun bs => ⟨rfl, rfl, rfl, bytes_start bs, fun i => by rw [← bytes_getElem?, bytes_start]⟩

/-- Settles O39: the loaded cells are canonical and inside the buffer, and nothing is decoded yet. -/
theorem everySessionStartMeetsTheInvariant : Obligations.EverySessionStartMeetsTheInvariant := sessionInv_start

/-- Settles O38: reset is the start over no bytes. -/
theorem resetMeetsTheSessionInvariant : Obligations.ResetMeetsTheSessionInvariant := sessionInv_start []

/-- Settles O46, by the two inductions over the run: its frame, and what it appends. -/
theorem runKeepsTheBufferAndExtendsTheOutput : Obligations.RunKeepsTheBufferAndExtendsTheOutput := by
  intro k s t h
  have hinput : t.input = s.input := run_next_input h
  exact ⟨congrArg SessionInput.len hinput, congrArg SessionInput.buf hinput, run_next_extends_out h⟩

/-- Settles O49: the cursor of the state and of the next one are at most `len`. -/
theorem wBitCursorRegisterNeverWraps : Obligations.WBitCursorRegisterNeverWraps := by
  intro W s t hW inv hstep
  have hreg : (cursorRegister W s).toNat = s.cursor := toNat_cursorRegister (inv.cursor_le_len.trans_lt hW)
  refine ⟨hreg, endedRegister_eq hW inv.cursor_le_len, fun hrun => ?_⟩
  obtain ⟨hend, _⟩ | ⟨_, rfl⟩ := step_next_cases hstep
  · exact absurd (hend.symm.trans hrun) (by decide)
  · have hroom : s.cursor + 2 ≤ s.len := (not_ended_iff s).1 hrun
    refine ⟨cursorRegister_add_two rfl, ?_⟩
    rw [toNat_cursorRegister (hroom.trans_lt hW), hreg, withToken_cursor]

/-- Settles O51: the bytes fix the buffer, and buffer and cursor fix the output. -/
theorem sessionStateIsDeterminedByItsBytes : Obligations.SessionStateIsDeterminedByItsBytes := by
  intro s t invs invt hbytes hcur
  obtain ⟨hlen, hbuf⟩ := invs.input_eq_of_bytes_eq invt hbytes
  refine State.ext_fields hlen hbuf hcur ?_
  rw [invs.out_eq_take_decoded, invt.out_eq_take_decoded, hcur, decoded_congr hlen hbuf]

/-- Settles O54: `decodeStep` has a step exactly where the session has not ended. -/
theorem stepIsDecodeStepWithItsInputsAsParameters : Obligations.StepIsDecodeStepWithItsInputsAsParameters := by
  refine ⟨fun i m m' h => ?_, fun i m h => ?_, fun _ _ => step_next_input⟩
  · obtain ⟨hroom, rfl⟩ := decodeStep_eq_some.1 h
    exact step_of_running ((not_ended_iff (i.withState m)).2 hroom)
  · have hend : (i.withState m).ended = true := (ended_iff (i.withState m)).2 (decodeStep_eq_none.1 h)
    exact ⟨hend, step_of_ended hend⟩

end

/-! ## The rows of the opcode table -/

namespace Sys2Proof

/-! ### What a row takes -/

theorem wordXK_and (f f' : Nibble) (x x' : RegIndex) (kk kk' : Byte) :
    wordXK f x kk &&& wordXK f' x' kk' = wordXK (f &&& f') (x &&& x') (kk &&& kk') := by
  unfold wordXK
  exact (BitVec.and_append (x₁ := f ++ x)).trans (congrArg (· ++ (kk &&& kk')) BitVec.and_append)

theorem nibble_and_F (n : Nibble) : n &&& 0xF = n := BitVec.and_allOnes

theorem nibble_and_0 (n : Nibble) : n &&& 0x0 = 0 := BitVec.and_zero

theorem byte_and_FF (b : Byte) : b &&& 0xFF = b := BitVec.and_allOnes

/-- Mask 0xF000 keeps the family. -/
theorem and_F000 (v : Word) : v &&& 0xF000 = wordXYN (family v) 0 0 0 := by
  have h := wordXYN_and (family v) 0xF (fieldX v) 0x0 (fieldY v) 0x0 (fieldN v) 0x0
  rwa [wordXYN_fields, nibble_and_F, nibble_and_0, nibble_and_0, nibble_and_0] at h

/-- Mask 0xF00F keeps the family and the low nibble. -/
theorem and_F00F (v : Word) : v &&& 0xF00F = wordXYN (family v) 0 0 (fieldN v) := by
  have h := wordXYN_and (family v) 0xF (fieldX v) 0x0 (fieldY v) 0x0 (fieldN v) 0xF
  rwa [wordXYN_fields, nibble_and_F, nibble_and_F, nibble_and_0, nibble_and_0] at h

/-- Mask 0xF0FF keeps the family and the low byte. -/
theorem and_F0FF (v : Word) : v &&& 0xF0FF = wordXK (family v) 0 (fieldKK v) := by
  have h := wordXK_and (family v) 0xF (fieldX v) 0x0 (fieldKK v) 0xFF
  rwa [wordXK_fields, nibble_and_F, byte_and_FF, nibble_and_0] at h

theorem wordXK_injective {f f' : Nibble} {x x' : RegIndex} {kk kk' : Byte} :
    wordXK f x kk = wordXK f' x' kk' ↔ f = f' ∧ x = x' ∧ kk = kk' := by
  constructor
  · intro h
    exact ⟨by simpa using congrArg family h, by simpa using congrArg fieldX h, by simpa using congrArg fieldKK h⟩
  · rintro ⟨rfl, rfl, rfl⟩
    rfl

/-- A row of mask 0xFFFF takes its own pattern and no other word. -/
theorem takes_wholeWord (c : Nat) (w : Word) (ops : List Field) (v : Word) :
    OpcodeRow.takes { code := c, mask := 0xFFFF, pattern := w, operands := ops } v = true ↔ v = w := by
  have h : v &&& 0xFFFF = v := BitVec.and_allOnes
  rw [OpcodeRow.takes, beq_iff_eq, h]

theorem takes_singleShapeRow (f : Nibble) (s : SingleShape) (v : Word) :
    (singleShapeRow (wordXYN f 0 0 0) s).takes v = true ↔ family v = f := by
  rw [OpcodeRow.takes, beq_iff_eq, singleShapeRow, and_F000, wordXYN_injective]
  simp

theorem takes_family8Row (c : Nat) (sel : Nibble) (v : Word) :
    (family8Row c sel).takes v = true ↔ family v = 0x8 ∧ fieldN v = sel := by
  rw [OpcodeRow.takes, beq_iff_eq, family8Row, and_F00F, wordXYN_injective]
  simp

theorem takes_lowByteRow (c : Nat) (f : Nibble) (sel : Byte) (v : Word) :
    (lowByteRow c f sel).takes v = true ↔ family v = f ∧ fieldKK v = sel := by
  rw [OpcodeRow.takes, beq_iff_eq, lowByteRow, and_F0FF, wordXK_injective]
  simp

/-! ### The rows from the lists of the parameters -/

/-- The families of R36, in its order. -/
def shapeFamilies : List Nibble := [0x1, 0x2, 0x3, 0x4, 0x5, 0x6, 0x7, 0x9, 0xA, 0xB, 0xC, 0xD]

/-- Each single-shape family with what it selects. -/
def Params.familyShapes (p : Params) : List (Nibble × SingleShape) := shapeFamilies.zip p.shapes

/-- Each selector of family 8, with the number of the variant it selects (R38). -/
def Params.variants8 (p : Params) : List (Nat × Nibble) := (List.range' 14 9).zip p.selectors8

/-- Each selector of family E, with the number of the variant it selects (R39). -/
def Params.variantsE (p : Params) : List (Nat × Byte) := (List.range' 23 2).zip p.selectorsE

/-- Each selector of family F, with the number of the variant it selects (R40). -/
def Params.variantsF (p : Params) : List (Nat × Byte) := (List.range' 25 9).zip p.selectorsF

theorem rowsSingleShape_eq (p : Params) :
    rowsSingleShape p = p.familyShapes.map (fun q => singleShapeRow (wordXYN q.1 0 0 0) q.2) := by
  simp only [rowsSingleShape, Params.familyShapes, shapeFamilies, Params.shapes, List.zip_cons_cons, List.zip_nil_right,
    List.map_cons, List.map_nil]
  rfl

theorem rowsFamily8_eq (p : Params) : rowsFamily8 p = p.variants8.map (fun q => family8Row q.1 q.2) := rfl

theorem rowsFamiliesEF_eq (p : Params) :
    rowsFamiliesEF p =
      p.variantsE.map (fun q => lowByteRow q.1 0xE q.2) ++ p.variantsF.map (fun q => lowByteRow q.1 0xF q.2) := rfl

/-! ### The families of the words that rows take -/

/-- The words that the rows take are of the families `fs`. -/
def TakesOnly (fs : List Nibble) (rows : List OpcodeRow) : Prop :=
  ∀ r ∈ rows, ∀ v, r.takes v = true → family v ∈ fs

theorem TakesOnly.append {fs fs' : List Nibble} {rows rows' : List OpcodeRow} (h : TakesOnly fs rows)
    (h' : TakesOnly fs' rows') : TakesOnly (fs ++ fs') (rows ++ rows') := fun r hr v ht =>
  List.mem_append.2 ((List.mem_append.1 hr).imp (h r · v ht) (h' r · v ht))

/-- Rows of other families leave the word alone. -/
theorem TakesOnly.none {fs : List Nibble} {rows : List OpcodeRow} (h : TakesOnly fs rows) {v : Word} {f : Nibble}
    (hv : family v = f) (hf : f ∉ fs) : ∀ r ∈ rows, ¬ r.takes v = true :=
  fun r hr ht => hf (hv ▸ h r hr v ht)

theorem takesOnly_rowsFamily0 : TakesOnly [0x0] rowsFamily0 := by
  intro r hr v h
  simp only [rowsFamily0, List.mem_cons, List.not_mem_nil, or_false] at hr
  rcases hr with rfl | rfl
  · rw [(takes_wholeWord ..).1 h]
    decide
  · rw [(takes_wholeWord ..).1 h]
    decide

theorem takesOnly_rowsSingleShape (p : Params) : TakesOnly shapeFamilies (rowsSingleShape p) := by
  intro r hr v h
  rw [rowsSingleShape_eq] at hr
  obtain ⟨q, hq, rfl⟩ := List.mem_map.1 hr
  rw [(takes_singleShapeRow ..).1 h]
  exact (List.of_mem_zip hq).1

theorem takesOnly_rowsFamily8 (p : Params) : TakesOnly [0x8] (rowsFamily8 p) := by
  intro r hr v h
  rw [rowsFamily8_eq] at hr
  obtain ⟨q, _, rfl⟩ := List.mem_map.1 hr
  exact List.mem_singleton.2 ((takes_family8Row ..).1 h).1

theorem takesOnly_lowByteRows (f : Nibble) (l : List (Nat × Byte)) :
    TakesOnly [f] (l.map (fun q => lowByteRow q.1 f q.2)) := by
  intro r hr v h
  obtain ⟨q, _, rfl⟩ := List.mem_map.1 hr
  exact List.mem_singleton.2 ((takes_lowByteRow ..).1 h).1

theorem takesOnly_rowsFamiliesEF (p : Params) : TakesOnly [0xE, 0xF] (rowsFamiliesEF p) :=
  (takesOnly_lowByteRows 0xE p.variantsE).append (takesOnly_lowByteRows 0xF p.variantsF)

/-! ### The first row that takes a word -/

/-- The search of `rowOf`, from any list of rows. -/
def firstRow (v : Word) (rows : List OpcodeRow) : OpcodeRow := (rows.find? (fun r => r.takes v)).getD fallbackRow

theorem rowOf_eq_firstRow (p : Params) (v : Word) :
    rowOf p v = firstRow v (rowsFamily0 ++ (rowsSingleShape p ++ (rowsFamily8 p ++ rowsFamiliesEF p))) := by
  simp only [rowOf, opcodeRows, firstRow, List.append_assoc]

theorem firstRow_cons (v : Word) (r : OpcodeRow) (rows : List OpcodeRow) :
    firstRow v (r :: rows) = if r.takes v = true then r else firstRow v rows := by
  unfold firstRow
  cases h : r.takes v <;> simp [h]

theorem firstRow_of_none {v : Word} {rows : List OpcodeRow} (h : ∀ r ∈ rows, ¬ r.takes v = true) :
    firstRow v rows = fallbackRow := by
  rw [firstRow, List.find?_eq_none.2 h, Option.getD_none]

theorem firstRow_append_of_none {v : Word} {rows rows' : List OpcodeRow} (h : ∀ r ∈ rows, ¬ r.takes v = true) :
    firstRow v (rows ++ rows') = firstRow v rows' := by
  rw [firstRow, List.find?_append, List.find?_eq_none.2 h, Option.none_or, firstRow]

/-- A row that takes the word is the first one, when no other row of the list takes it. -/
theorem firstRow_append_of_unique {v : Word} {r : OpcodeRow} {rows rows' : List OpcodeRow} (hr : r ∈ rows)
    (h : r.takes v = true) (huniq : ∀ r' ∈ rows, r'.takes v = true → r' = r) : firstRow v (rows ++ rows') = r := by
  obtain ⟨r', hfind⟩ := Option.isSome_iff_exists.1 ((List.find?_isSome (p := (·.takes v))).2 ⟨r, hr, h⟩)
  have htakes : r'.takes v = true := List.find?_some (p := fun x : OpcodeRow => x.takes v) hfind
  have heq : r' = r := huniq r' (List.mem_of_find?_eq_some hfind) htakes
  rw [firstRow, List.find?_append, hfind, Option.some_or, Option.getD_some, heq]

/-- The first row takes the word and is in the list, or it is the fallback. -/
theorem firstRow_cases (v : Word) (rows : List OpcodeRow) :
    (firstRow v rows ∈ rows ∧ (firstRow v rows).takes v = true) ∨ firstRow v rows = fallbackRow := by
  unfold firstRow
  cases h : rows.find? (fun r => r.takes v) with
  | none => exact .inr rfl
  | some r => exact .inl ⟨List.mem_of_find?_eq_some h, List.find?_some (p := fun x : OpcodeRow => x.takes v) h⟩

end Sys2Proof

/-! ## Dispatch and table agree -/

namespace Sys2Proof.Machine

/-- A token and a row agree on a word: the same variant, and the row's fields of the word are the operands. -/
structure RowAgrees (v : Word) (t : Token) (r : OpcodeRow) : Prop where
  code : t.code = r.code
  operands : operands t = r.operands.map (operandOf v)

/-- One test of the dispatch against one row of the table. -/
theorem RowAgrees.ite_cons {v : Word} {t t' : Token} {r : OpcodeRow} {rows : List OpcodeRow} {c : Prop} [Decidable c]
    (hc : r.takes v = true ↔ c) (h : RowAgrees v t r) (h' : RowAgrees v t' (firstRow v rows)) :
    RowAgrees v (if c then t else t') (firstRow v (r :: rows)) := by
  rw [firstRow_cons]
  by_cases hcase : c
  · rw [if_pos hcase, if_pos (hc.2 hcase)]
    exact h
  · rw [if_neg hcase, if_neg (hcase ∘ hc.1)]
    exact h'

/-- The end of a secondary dispatch: no row is left that takes the word (R88). -/
theorem RowAgrees.opaqueData {v : Word} {rows : List OpcodeRow} (h : ∀ r ∈ rows, ¬ r.takes v = true) :
    RowAgrees v (.opaqueData v) (firstRow v rows) := by
  rw [firstRow_of_none h]
  exact ⟨rfl, rfl⟩

theorem rowAgrees_singleShape (s : SingleShape) (v pattern : Word) :
    RowAgrees v (s.token v) (singleShapeRow pattern s) := by
  cases s <;> exact ⟨rfl, rfl⟩

theorem rowAgrees_family0 {v : Word} {rows : List OpcodeRow} (hrows : ∀ r ∈ rows, ¬ r.takes v = true) :
    RowAgrees v (classifyFamily0 v) (firstRow v (rowsFamily0 ++ rows)) :=
  .ite_cons (takes_wholeWord ..) ⟨rfl, rfl⟩ <|
  .ite_cons (takes_wholeWord ..) ⟨rfl, rfl⟩ <|
  .opaqueData hrows

theorem rowAgrees_family8 {p : Params} {v : Word} {rows : List OpcodeRow} (hf : family v = 0x8)
    (hrows : ∀ r ∈ rows, ¬ r.takes v = true) :
    RowAgrees v (classifyFamily8 p v) (firstRow v (rowsFamily8 p ++ rows)) :=
  have htakes (c : Nat) (sel : Nibble) : (family8Row c sel).takes v = true ↔ fieldN v = sel := by
    simp [takes_family8Row, hf]
  .ite_cons (htakes ..) ⟨rfl, rfl⟩ <|
  .ite_cons (htakes ..) ⟨rfl, rfl⟩ <|
  .ite_cons (htakes ..) ⟨rfl, rfl⟩ <|
  .ite_cons (htakes ..) ⟨rfl, rfl⟩ <|
  .ite_cons (htakes ..) ⟨rfl, rfl⟩ <|
  .ite_cons (htakes ..) ⟨rfl, rfl⟩ <|
  .ite_cons (htakes ..) ⟨rfl, rfl⟩ <|
  .ite_cons (htakes ..) ⟨rfl, rfl⟩ <|
  .ite_cons (htakes ..) ⟨rfl, rfl⟩ <|
  .opaqueData hrows

theorem rowAgrees_familyE {p : Params} {v : Word} {rows : List OpcodeRow} (hf : family v = 0xE)
    (hrows : ∀ r ∈ rows, ¬ r.takes v = true) :
    RowAgrees v (classifyFamilyE p v) (firstRow v (p.variantsE.map (fun q => lowByteRow q.1 0xE q.2) ++ rows)) :=
  have htakes (c : Nat) (sel : Byte) : (lowByteRow c 0xE sel).takes v = true ↔ fieldKK v = sel := by
    simp [takes_lowByteRow, hf]
  .ite_cons (htakes ..) ⟨rfl, rfl⟩ <|
  .ite_cons (htakes ..) ⟨rfl, rfl⟩ <|
  .opaqueData hrows

theorem rowAgrees_familyF {p : Params} {v : Word} (hf : family v = 0xF) :
    RowAgrees v (classifyFamilyF p v) (firstRow v (p.variantsF.map (fun q => lowByteRow q.1 0xF q.2))) :=
  have htakes (c : Nat) (sel : Byte) : (lowByteRow c 0xF sel).takes v = true ↔ fieldKK v = sel := by
    simp [takes_lowByteRow, hf]
  .ite_cons (htakes ..) ⟨rfl, rfl⟩ <|
  .ite_cons (htakes ..) ⟨rfl, rfl⟩ <|
  .ite_cons (htakes ..) ⟨rfl, rfl⟩ <|
  .ite_cons (htakes ..) ⟨rfl, rfl⟩ <|
  .ite_cons (htakes ..) ⟨rfl, rfl⟩ <|
  .ite_cons (htakes ..) ⟨rfl, rfl⟩ <|
  .ite_cons (htakes ..) ⟨rfl, rfl⟩ <|
  .ite_cons (htakes ..) ⟨rfl, rfl⟩ <|
  .ite_cons (htakes ..) ⟨rfl, rfl⟩ <|
  .opaqueData (fun _ hr => absurd hr List.not_mem_nil)

/-- No family stands twice in the pairing. -/
theorem nodup_familyShapes (p : Params) : (p.familyShapes.map Prod.fst).Nodup := by
  rw [show p.familyShapes.map Prod.fst = shapeFamilies from rfl]
  decide

/-- What a family selects by the pairing, it selects alone. -/
theorem familyShapes_unique {p : Params} {f : Nibble} {s s' : SingleShape} (h : (f, s) ∈ p.familyShapes)
    (h' : (f, s') ∈ p.familyShapes) : s = s' :=
  congrArg Prod.snd (List.inj_on_of_nodup_map (nodup_familyShapes p) h h' rfl)

theorem firstRow_singleShape {p : Params} {v : Word} {s : SingleShape} (h : (family v, s) ∈ p.familyShapes)
    (rows : List OpcodeRow) :
    firstRow v (rowsSingleShape p ++ rows) = singleShapeRow (wordXYN (family v) 0 0 0) s := by
  rw [rowsSingleShape_eq]
  refine firstRow_append_of_unique (List.mem_map.2 ⟨_, h, rfl⟩) ((takes_singleShapeRow ..).2 rfl) ?_
  intro r' hr' htakes
  obtain ⟨⟨f, s'⟩, hq, rfl⟩ := List.mem_map.1 hr'
  obtain rfl : family v = f := (takes_singleShapeRow ..).1 htakes
  rw [familyShapes_unique hq h]

/-- The dispatch by family and selector finds the row of the table (30_encoding.md section 4). -/
theorem rowAgrees_rowOf (p : Params) (v : Word) : RowAgrees v (classifyWith p v) (rowOf p v) := by
  rw [rowOf_eq_firstRow]
  obtain ⟨hf, hc⟩ | ⟨hf, hc⟩ | ⟨hf, hc⟩ | ⟨hf, hc⟩ | ⟨s, hs, hc⟩ := classifyWith_cases p v <;> rw [hc]
  · have hrest := (takesOnly_rowsSingleShape p).append ((takesOnly_rowsFamily8 p).append (takesOnly_rowsFamiliesEF p))
    exact rowAgrees_family0 (hrest.none hf (by decide))
  · rw [firstRow_append_of_none (takesOnly_rowsFamily0.none hf (by decide)),
      firstRow_append_of_none ((takesOnly_rowsSingleShape p).none hf (by decide))]
    exact rowAgrees_family8 hf ((takesOnly_rowsFamiliesEF p).none hf (by decide))
  · rw [firstRow_append_of_none (takesOnly_rowsFamily0.none hf (by decide)),
      firstRow_append_of_none ((takesOnly_rowsSingleShape p).none hf (by decide)),
      firstRow_append_of_none ((takesOnly_rowsFamily8 p).none hf (by decide)), rowsFamiliesEF_eq]
    exact rowAgrees_familyE hf ((takesOnly_lowByteRows 0xF _).none hf (by decide))
  · rw [firstRow_append_of_none (takesOnly_rowsFamily0.none hf (by decide)),
      firstRow_append_of_none ((takesOnly_rowsSingleShape p).none hf (by decide)),
      firstRow_append_of_none ((takesOnly_rowsFamily8 p).none hf (by decide)), rowsFamiliesEF_eq,
      firstRow_append_of_none ((takesOnly_lowByteRows 0xE _).none hf (by decide))]
    exact rowAgrees_familyF hf
  · have hfam : family v ∈ shapeFamilies := (List.of_mem_zip hs).1
    have hne : family v ∉ [0x0] := fun h => absurd (List.mem_singleton.1 h ▸ hfam) (by decide)
    rw [firstRow_append_of_none (takesOnly_rowsFamily0.none rfl hne), firstRow_singleShape hs]
    exact rowAgrees_singleShape s v _

theorem operands_length_le (t : Token) : (operands t).length ≤ 3 := by
  cases t <;> simp [operands]

end Sys2Proof.Machine

section
open Sys2Proof Sys2Proof.Machine

/-- Settles O16: the tests of the dispatch are, in order, the rows of the table. -/
theorem dispatchAgreesWithTheOpcodeTable : Obligations.DispatchAgreesWithTheOpcodeTable :=
  fun p v => ⟨(rowAgrees_rowOf p v).code, (rowAgrees_rowOf p v).operands, operands_length_le _⟩

end

/-! ## How many words each variant has -/

namespace Sys2Proof.Machine

/-! ### Under an admissible choice no two rows take the same word (R44) -/

/-- No word is taken by both rows. -/
def RowsDisjoint (r r' : OpcodeRow) : Prop := ∀ v, r.takes v = true → ¬ r'.takes v = true

/-- Rows of different families are disjoint. -/
theorem pairwise_disjoint_append {fs fs' : List Nibble} {rows rows' : List OpcodeRow} (hf : TakesOnly fs rows)
    (hf' : TakesOnly fs' rows') (hfs : ∀ f ∈ fs, f ∉ fs') (h : rows.Pairwise RowsDisjoint)
    (h' : rows'.Pairwise RowsDisjoint) : (rows ++ rows').Pairwise RowsDisjoint :=
  List.pairwise_append.2 ⟨h, h', fun r hr r' hr' v ht ht' => hfs _ (hf r hr v ht) (hf' r' hr' v ht')⟩

theorem pairwise_disjoint_rowsFamily0 : rowsFamily0.Pairwise RowsDisjoint := by
  refine List.pairwise_pair.2 fun v h h' => ?_
  have heq : (0x00E0 : Word) = 0x00EE := ((takes_wholeWord ..).1 h).symm.trans ((takes_wholeWord ..).1 h')
  exact absurd heq (by decide)

theorem pairwise_disjoint_rowsSingleShape (p : Params) : (rowsSingleShape p).Pairwise RowsDisjoint := by
  rw [rowsSingleShape_eq, List.pairwise_map]
  refine (List.pairwise_map.1 (nodup_familyShapes p)).imp fun {q q'} hne v h h' => hne ?_
  rw [← (takes_singleShapeRow ..).1 h, (takes_singleShapeRow ..).1 h']

theorem pairwise_disjoint_rowsFamily8 {p : Params} (hnodup : p.selectors8.Nodup) :
    (rowsFamily8 p).Pairwise RowsDisjoint := by
  rw [rowsFamily8_eq, List.pairwise_map]
  refine (List.pairwise_map.1 (show (p.variants8.map Prod.snd).Nodup from hnodup)).imp fun {q q'} hne v h h' => hne ?_
  rw [← ((takes_family8Row ..).1 h).2, ((takes_family8Row ..).1 h').2]

theorem pairwise_disjoint_lowByteRows {l : List (Nat × Byte)} (hnodup : (l.map Prod.snd).Nodup) (f : Nibble) :
    (l.map (fun q => lowByteRow q.1 f q.2)).Pairwise RowsDisjoint := by
  rw [List.pairwise_map]
  refine (List.pairwise_map.1 hnodup).imp fun {q q'} hne v h h' => hne ?_
  rw [← ((takes_lowByteRow ..).1 h).2, ((takes_lowByteRow ..).1 h').2]

theorem pairwise_disjoint_opcodeRows {p : Params} (hp : p.Admissible) : (opcodeRows p).Pairwise RowsDisjoint := by
  obtain ⟨⟨h8, _⟩, hE, ⟨hF, _⟩, _⟩ := hp
  have hEF : (rowsFamiliesEF p).Pairwise RowsDisjoint :=
    pairwise_disjoint_append (takesOnly_lowByteRows 0xE _) (takesOnly_lowByteRows 0xF _) (by decide)
      (pairwise_disjoint_lowByteRows (l := p.variantsE) hE 0xE) (pairwise_disjoint_lowByteRows (l := p.variantsF) hF 0xF)
  have h0S := pairwise_disjoint_append takesOnly_rowsFamily0 (takesOnly_rowsSingleShape p) (by decide)
    pairwise_disjoint_rowsFamily0 (pairwise_disjoint_rowsSingleShape p)
  have htakes0S := takesOnly_rowsFamily0.append (takesOnly_rowsSingleShape p)
  have h0S8 := pairwise_disjoint_append htakes0S (takesOnly_rowsFamily8 p) (by decide) h0S
    (pairwise_disjoint_rowsFamily8 h8)
  exact pairwise_disjoint_append (htakes0S.append (takesOnly_rowsFamily8 p)) (takesOnly_rowsFamiliesEF p) (by decide)
    h0S8 hEF

/-- The row that a word selects takes it; the fallback takes every word. -/
theorem rowOf_takes (p : Params) (v : Word) : (rowOf p v).takes v = true := by
  obtain ⟨_, h⟩ | h := firstRow_cases v (opcodeRows p)
  · exact h
  · rw [show rowOf p v = fallbackRow from h, OpcodeRow.takes, beq_iff_eq]
    exact BitVec.and_zero

theorem rowOf_mem (p : Params) (v : Word) : rowOf p v ∈ opcodeRows p ++ [fallbackRow] :=
  List.mem_append.2 ((firstRow_cases v (opcodeRows p)).imp And.left List.mem_singleton.2)

/-- A row of the table that takes a word is the row the word selects. -/
theorem rowOf_eq_iff_takes {p : Params} (hp : p.Admissible) {r : OpcodeRow} (hr : r ∈ opcodeRows p) {v : Word} :
    rowOf p v = r ↔ r.takes v = true := by
  refine ⟨fun h => h ▸ rowOf_takes p v, fun h => ?_⟩
  have hsymm : Std.Symm RowsDisjoint := ⟨fun _ _ hdis v h h' => hdis v h' h⟩
  have huniq (r') (hr' : r' ∈ opcodeRows p) (h' : r'.takes v = true) : r' = r := by
    by_contra hne
    exact (pairwise_disjoint_opcodeRows hp).forall hr' hr hne v h' h
  rw [rowOf, ← firstRow, ← List.append_nil (opcodeRows p), firstRow_append_of_unique hr h huniq]

/-! ### The variants of the rows -/

theorem nodup_shapes_of_admissible {p : Params} (hp : p.Admissible) : p.shapes.Nodup := by
  obtain ⟨_, _, _, hshapes, _⟩ := hp
  exact hshapes

/-- Twelve different instructions of the twelve single shapes are all of them (R36). -/
theorem codes_shapes_perm {p : Params} (h : p.shapes.Nodup) :
    (p.shapes.map SingleShape.code).Perm (List.range' 2 12) := by
  have hnodup : (p.shapes.map SingleShape.code).Nodup := h.map fun _ _ => singleShape_code_injective.1
  refine (List.subperm_of_subset hnodup fun c hc => ?_).perm_of_length_le (Nat.le_refl 12)
  obtain ⟨s, _, rfl⟩ := List.mem_map.1 hc
  have := singleShape_code_range s
  rw [List.mem_range'_1]
  omega

/-- The rows, the fallback among them, name each of the 35 variants once. -/
theorem codes_rows_perm {p : Params} (h : p.shapes.Nodup) :
    ((opcodeRows p ++ [fallbackRow]).map OpcodeRow.code).Perm (List.range 35) :=
  (((codes_shapes_perm h).append_left [0, 1]).append_right (List.range' 14 9)).append_right (List.range' 23 12)

/-- The words of a variant are those that its row takes. -/
theorem code_eq_iff_takes {p : Params} (hp : p.Admissible) {r : OpcodeRow} (hr : r ∈ opcodeRows p) {v : Word} :
    (classifyWith p v).code = r.code ↔ r.takes v = true := by
  have hnodup : ((opcodeRows p ++ [fallbackRow]).map OpcodeRow.code).Nodup :=
    (codes_rows_perm (nodup_shapes_of_admissible hp)).nodup_iff.2 List.nodup_range
  rw [(rowAgrees_rowOf p v).code, ← rowOf_eq_iff_takes hp hr]
  exact ⟨List.inj_on_of_nodup_map hnodup (rowOf_mem p v) (List.mem_append_left _ hr), congrArg OpcodeRow.code⟩

/-! ### The number of words of a row -/

theorem card_nibble : Fintype.card Nibble = 16 := rfl

/-- The nibbles of a word are chosen independently (30_encoding.md R32). -/
theorem card_words_of_nibbles (F X Y N : Finset Nibble) :
    (Finset.univ.filter (fun v : Word => family v ∈ F ∧ fieldX v ∈ X ∧ fieldY v ∈ Y ∧ fieldN v ∈ N)).card =
      F.card * (X.card * (Y.card * N.card)) := by
  have hprod : Finset.univ.filter (fun q : Nibble × RegIndex × RegIndex × Nibble =>
      q.1 ∈ F ∧ q.2.1 ∈ X ∧ q.2.2.1 ∈ Y ∧ q.2.2.2 ∈ N) = F ×ˢ X ×ˢ Y ×ˢ N := by
    ext q
    simp only [Finset.mem_filter_univ, Finset.mem_product]
  refine (card_words_by_nibbles (fun q => q.1 ∈ F ∧ q.2.1 ∈ X ∧ q.2.2.1 ∈ Y ∧ q.2.2.2 ∈ N)).trans ?_
  rw [hprod, Finset.card_product, Finset.card_product, Finset.card_product]

theorem card_family (f : Nibble) : (Finset.univ.filter (fun v : Word => family v = f)).card = 4096 := by
  simpa [card_nibble] using card_words_of_nibbles {f} Finset.univ Finset.univ Finset.univ

theorem card_family_fieldN (f : Nibble) (n : Nibble) :
    (Finset.univ.filter (fun v : Word => family v = f ∧ fieldN v = n)).card = 256 := by
  simpa [card_nibble] using card_words_of_nibbles {f} Finset.univ Finset.univ {n}

/-- A low byte is the two low nibbles (30_encoding.md R32). -/
theorem fieldKK_eq_iff {v : Word} {kk : Byte} :
    fieldKK v = kk ↔ fieldY v = kk.extractLsb' 4 4 ∧ fieldN v = kk.extractLsb' 0 4 := by
  have hword : fieldKK v = kk ↔ v = wordXK (family v) (fieldX v) kk :=
    ⟨fun h => h ▸ (wordXK_fields v).symm, fun h => (congrArg fieldKK h).trans (fieldKK_wordXK ..)⟩
  have hnibbles := wordXYN_injective (f := family v) (x := fieldX v) (y := fieldY v) (n := fieldN v) (f' := family v)
    (x' := fieldX v) (y' := kk.extractLsb' 4 4) (n' := kk.extractLsb' 0 4)
  rw [wordXYN_fields] at hnibbles
  rw [hword, wordXK_eq_wordXYN, hnibbles]
  simp

theorem card_family_fieldKK (f : Nibble) (kk : Byte) :
    (Finset.univ.filter (fun v : Word => family v = f ∧ fieldKK v = kk)).card = 16 := by
  simpa [card_nibble, fieldKK_eq_iff] using
    card_words_of_nibbles {f} Finset.univ {kk.extractLsb' 4 4} {kk.extractLsb' 0 4}

/-! ### The number of words of a variant (95_test_vectors.md 2.7) -/

/-- The number of words of the variant `c`, by the kind of its row; 13902 are left for the fallback. -/
def variantWordCount (c : Nat) : Nat :=
  if c ≤ 1 then 1 else if c ≤ 13 then 4096 else if c ≤ 22 then 256 else if c ≤ 33 then 16
    else if c = 34 then 13902 else 0

theorem variantWordCount_singleShape {c : Nat} (hlo : 2 ≤ c) (hhi : c ≤ 13) : variantWordCount c = 4096 := by
  rw [variantWordCount, if_neg (by omega), if_pos hhi]

theorem variantWordCount_family8 {c : Nat} (hlo : 14 ≤ c) (hhi : c ≤ 22) : variantWordCount c = 256 := by
  rw [variantWordCount, if_neg (by omega), if_neg (by omega), if_pos hhi]

theorem variantWordCount_lowByte {c : Nat} (hlo : 23 ≤ c) (hhi : c ≤ 33) : variantWordCount c = 16 := by
  rw [variantWordCount, if_neg (by omega), if_neg (by omega), if_neg (by omega), if_pos hhi]

theorem variantWordCount_beyond {c : Nat} (h : 34 < c) : variantWordCount c = 0 := by
  rw [variantWordCount, if_neg (by omega), if_neg (by omega), if_neg (by omega), if_neg (by omega), if_neg (by omega)]

theorem card_takes_wholeWord (c : Nat) (w : Word) (ops : List Field) :
    (Finset.univ.filter (fun v =>
      OpcodeRow.takes { code := c, mask := 0xFFFF, pattern := w, operands := ops } v = true)).card = 1 := by
  simp only [takes_wholeWord, Finset.filter_eq', Finset.mem_univ, if_true, Finset.card_singleton]

theorem card_takes_rowsFamily0 {r : OpcodeRow} (hr : r ∈ rowsFamily0) :
    (Finset.univ.filter (fun v => r.takes v = true)).card = variantWordCount r.code := by
  simp only [rowsFamily0, List.mem_cons, List.not_mem_nil, or_false] at hr
  rcases hr with rfl | rfl
  · exact card_takes_wholeWord ..
  · exact card_takes_wholeWord ..

theorem card_takes_rowsSingleShape {p : Params} {r : OpcodeRow} (hr : r ∈ rowsSingleShape p) :
    (Finset.univ.filter (fun v => r.takes v = true)).card = variantWordCount r.code := by
  rw [rowsSingleShape_eq] at hr
  obtain ⟨⟨f, s⟩, _, rfl⟩ := List.mem_map.1 hr
  obtain ⟨hlo, hhi⟩ := singleShape_code_range s
  simp only [takes_singleShapeRow, card_family]
  exact (variantWordCount_singleShape hlo hhi).symm

theorem card_takes_rowsFamily8 {p : Params} {r : OpcodeRow} (hr : r ∈ rowsFamily8 p) :
    (Finset.univ.filter (fun v => r.takes v = true)).card = variantWordCount r.code := by
  rw [rowsFamily8_eq] at hr
  obtain ⟨⟨c, sel⟩, hq, rfl⟩ := List.mem_map.1 hr
  have hc : 14 ≤ c ∧ c < 14 + 9 := List.mem_range'_1.1 (List.of_mem_zip hq).1
  simp only [takes_family8Row, card_family_fieldN]
  exact (variantWordCount_family8 hc.1 (by omega)).symm

theorem card_takes_lowByteRow {c : Nat} (hlo : 23 ≤ c) (hhi : c ≤ 33) (f : Nibble) (sel : Byte) :
    (Finset.univ.filter (fun v => (lowByteRow c f sel).takes v = true)).card = variantWordCount c := by
  simp only [takes_lowByteRow, card_family_fieldKK]
  exact (variantWordCount_lowByte hlo hhi).symm

theorem card_takes_rowsFamiliesEF {p : Params} {r : OpcodeRow} (hr : r ∈ rowsFamiliesEF p) :
    (Finset.univ.filter (fun v => r.takes v = true)).card = variantWordCount r.code := by
  rw [rowsFamiliesEF_eq] at hr
  rcases List.mem_append.1 hr with hr | hr
  · obtain ⟨⟨c, sel⟩, hq, rfl⟩ := List.mem_map.1 hr
    have hc : 23 ≤ c ∧ c < 23 + 2 := List.mem_range'_1.1 (List.of_mem_zip hq).1
    exact card_takes_lowByteRow hc.1 (by omega) 0xE sel
  · obtain ⟨⟨c, sel⟩, hq, rfl⟩ := List.mem_map.1 hr
    have hc : 25 ≤ c ∧ c < 25 + 9 := List.mem_range'_1.1 (List.of_mem_zip hq).1
    exact card_takes_lowByteRow (by omega) (by omega) 0xF sel

theorem card_takes {p : Params} {r : OpcodeRow} (hr : r ∈ opcodeRows p) :
    (Finset.univ.filter (fun v => r.takes v = true)).card = variantWordCount r.code := by
  rw [opcodeRows, List.mem_append, List.mem_append, List.mem_append] at hr
  rcases hr with ((hr | hr) | hr) | hr
  · exact card_takes_rowsFamily0 hr
  · exact card_takes_rowsSingleShape hr
  · exact card_takes_rowsFamily8 hr
  · exact card_takes_rowsFamiliesEF hr

/-- The words of an instruction are those of its row, which has the variant's number. -/
theorem card_variant_of_lt {p : Params} (hp : p.Admissible) {c : Nat} (hc : c < 34) :
    (Finset.univ.filter (fun v : Word => (classifyWith p v).code = c)).card = variantWordCount c := by
  have hmem : c ∈ (opcodeRows p ++ [fallbackRow]).map OpcodeRow.code :=
    (codes_rows_perm (nodup_shapes_of_admissible hp)).mem_iff.2 (List.mem_range.2 (by omega))
  obtain ⟨r, hr, rfl⟩ := List.mem_map.1 hmem
  rcases List.mem_append.1 hr with hr | hr
  · simp only [code_eq_iff_takes hp hr]
    exact card_takes hr
  · rw [List.mem_singleton.1 hr] at hc
    exact absurd hc (by decide)

theorem code_lt (t : Token) : t.code < 35 := by
  cases t <;> simp [Instr.code]

/-- The fallback has what the 34 instructions leave of the 65536 words (30_encoding.md R42). -/
theorem card_variant_opaque {p : Params} (hp : p.Admissible) :
    (Finset.univ.filter (fun v : Word => (classifyWith p v).code = 34)).card = 13902 := by
  have hall : Fintype.card Word =
      ∑ c ∈ Finset.range 35, (Finset.univ.filter (fun v : Word => (classifyWith p v).code = c)).card :=
    Finset.card_eq_sum_card_fiberwise fun v _ => by simpa using code_lt (classifyWith p v)
  have hinstr :
      ∑ c ∈ Finset.range 34, (Finset.univ.filter (fun v : Word => (classifyWith p v).code = c)).card = 51634 :=
    (Finset.sum_congr rfl fun c hc => card_variant_of_lt hp (Finset.mem_range.1 hc)).trans (by decide)
  have hwords : Fintype.card Word = 65536 := (FinEnum.card_eq_fintypeCard (α := Word)).symm
  rw [Finset.sum_range_succ, hinstr, hwords] at hall
  omega

end Sys2Proof.Machine

section
open Sys2Proof Sys2Proof.Machine

/-- Settles O14: each row takes as many words as its mask leaves free, and the fallback has the rest. -/
theorem wordCountsOfEachVariant : Obligations.WordCountsOfEachVariant := by
  intro p hp c
  change _ = variantWordCount c
  rcases Nat.lt_trichotomy c 34 with hlt | rfl | hgt
  · exact card_variant_of_lt hp hlt
  · exact card_variant_opaque hp
  · have hnone : ∀ v : Word, (classifyWith p v).code ≠ c := fun v h => by
      have := code_lt (classifyWith p v)
      omega
    rw [Finset.filter_false_of_mem fun v _ => hnone v, Finset.card_empty, variantWordCount_beyond hgt]

end

/-! ## The offsets that a run reads -/

namespace Sys2Proof.Machine

theorem readsOfStep_of_ended {s : State} (h : s.ended = true) : readsOfStep s = [] := by
  simp [readsOfStep, fetchOffsets, h]

theorem readsOfStep_of_running {s : State} (h : s.ended = false) : readsOfStep s = List.range' s.cursor 2 := by
  simp [readsOfStep, fetchOffsets, h, List.range']

theorem readsOfRun_succ (k : Nat) {s t : State} (h : step s = .next t) :
    readsOfRun (k + 1) s = readsOfStep s ++ readsOfRun k t := by
  simp only [readsOfRun, h]

/-- An ended session reads nothing more (46_sequencer.md R96). -/
theorem readsOfRun_of_ended (k : Nat) {s : State} (h : s.ended = true) : readsOfRun k s = [] := by
  induction k with
  | zero => rfl
  | succ k ih => rw [readsOfRun_succ k (step_of_ended h), readsOfStep_of_ended h, ih, List.append_nil]

/-- From any state, a run reads the bytes from the cursor on: two for each step that the rest of the buffer has a word
for, so never an odd trailing byte (20_memory.md R22). -/
theorem readsOfRun_eq_range' (k : Nat) (s : State) :
    readsOfRun k s = List.range' s.cursor (2 * min k ((s.len - s.cursor) / 2)) := by
  induction k generalizing s with
  | zero => simp [readsOfRun]
  | succ k ih =>
    cases hs : s.ended with
    | true =>
      have hnone : (s.len - s.cursor) / 2 = 0 := by
        have := (ended_iff s).1 hs
        omega
      rw [readsOfRun_of_ended (k + 1) hs, hnone, Nat.min_zero]
      rfl
    | false =>
      have hcount : 2 * min (k + 1) ((s.len - s.cursor) / 2) = 2 + 2 * min k ((s.len - (s.cursor + 2)) / 2) := by
        have := (not_ended_iff s).1 hs
        omega
      rw [readsOfRun_succ k (step_of_running hs), readsOfStep_of_running hs, ih, withToken_len, withToken_cursor,
        hcount, List.range'_append_1]

end Sys2Proof.Machine

section
open Sys2Proof Sys2Proof.Machine

/-- Settles O47: from the start the cursor is 0, and the bytes from it on are read once each and in order. -/
theorem eachByteIsReadOnceInOrder : Obligations.EachByteIsReadOnceInOrder := by
  intro bs k
  rw [readsOfRun_eq_range', start_cursor, start_len, Nat.sub_zero, List.range_eq_range']

end

/-! ## The encoding: a token is its variant and the fields of its word, so that encoder and decoder undo each other -/

/-! ### FX's ports, and the token that DT's ports carry -/

namespace Sys2Proof.Machine

/-- FX's ports on a word: its fields (30_encoding.md R33). -/
def wordPorts (v : Word) : FxPorts where
  raw := v
  family := family v
  x := fieldX v
  y := fieldY v
  n := fieldN v
  kk := fieldKK v
  addr := fieldAddr v

theorem toNat_nibble_slice (b : Byte) (lo : Nat) : (b.extractLsb' lo 4).toNat = b.toNat / 2 ^ lo % 16 := by
  rw [BitVec.extractLsb'_toNat, Nat.shiftRight_eq_div_pow]

theorem family_fx (hi lo : Byte) : family (fx hi lo) = hi.extractLsb' 4 4 :=
  BitVec.eq_of_toNat_eq (by rw [toNat_family, toNat_fx, toNat_nibble_slice]; omega)
theorem fieldX_fx (hi lo : Byte) : fieldX (fx hi lo) = hi.extractLsb' 0 4 :=
  BitVec.eq_of_toNat_eq (by rw [toNat_fieldX, toNat_fx, toNat_nibble_slice]; omega)
theorem fieldY_fx (hi lo : Byte) : fieldY (fx hi lo) = lo.extractLsb' 4 4 :=
  BitVec.eq_of_toNat_eq (by rw [toNat_fieldY, toNat_fx, toNat_nibble_slice]; omega)
theorem fieldN_fx (hi lo : Byte) : fieldN (fx hi lo) = lo.extractLsb' 0 4 :=
  BitVec.eq_of_toNat_eq (by rw [toNat_fieldN, toNat_fx, toNat_nibble_slice]; omega)
theorem fieldKK_fx (hi lo : Byte) : fieldKK (fx hi lo) = lo :=
  BitVec.eq_of_toNat_eq (by rw [toNat_fieldKK, toNat_fx]; omega)
theorem fieldAddr_fx (hi lo : Byte) : fieldAddr (fx hi lo) = hi.extractLsb' 0 4 ++ lo :=
  BitVec.eq_of_toNat_eq (by rw [toNat_fieldAddr, toNat_fx, toNat_append_eq, toNat_nibble_slice]; omega)

theorem fxPorts_eq_wordPorts (hi lo : Byte) : fxPorts hi lo = wordPorts (fx hi lo) := by
  rw [wordPorts, family_fx, fieldX_fx, fieldY_fx, fieldN_fx, fieldKK_fx, fieldAddr_fx]
  rfl

/-- The token that a variant's number and a word's fields make (46_sequencer.md R97). -/
def tokenFrom (v : Word) (c : Nat) : Option Token :=
  DtPorts.token { variant := BitVec.ofNat 6 c, fields := wordPorts v }

theorem dtPorts_token_eq_tokenFrom (p : Params) (v : Word) :
    (dtPorts p v).token = tokenFrom v (classifyWith p v).code := by
  rw [tokenFrom, dtPorts, fxPorts_eq_wordPorts, fx_high_low]

/-- Every arm of the dispatch answers the operand fields of its variant. -/
theorem tokenFrom_code_classifyWith (p : Params) (v : Word) :
    tokenFrom v (classifyWith p v).code = some (classifyWith p v) := by
  obtain ⟨_, h⟩ | ⟨_, h⟩ | ⟨_, h⟩ | ⟨_, h⟩ | ⟨s, _, h⟩ := classifyWith_cases p v <;> rw [h]
  · obtain ⟨_, e⟩ | ⟨_, e⟩ | ⟨_, _, e⟩ := classifyFamily0_cases v <;> rw [e] <;> rfl
  · obtain ⟨_, e⟩ | ⟨_, e⟩ | ⟨_, e⟩ | ⟨_, e⟩ | ⟨_, e⟩ | ⟨_, e⟩ | ⟨_, e⟩ | ⟨_, e⟩ | ⟨_, e⟩ | ⟨_, e⟩ :=
      classifyFamily8_cases p v <;> rw [e] <;> rfl
  · obtain ⟨_, e⟩ | ⟨_, e⟩ | ⟨_, e⟩ := classifyFamilyE_cases p v <;> rw [e] <;> rfl
  · obtain ⟨_, e⟩ | ⟨_, e⟩ | ⟨_, e⟩ | ⟨_, e⟩ | ⟨_, e⟩ | ⟨_, e⟩ | ⟨_, e⟩ | ⟨_, e⟩ | ⟨_, e⟩ | ⟨_, e⟩ :=
      classifyFamilyF_cases p v <;> rw [e] <;> rfl
  · cases s <;> rfl

/-- The token of a word is fixed by its variant: the operands are the word's own fields (10_state.md R14). -/
theorem classifyWith_eq_of_code {p : Params} {v : Word} {t : Token} (hcode : (classifyWith p v).code = t.code)
    (ht : tokenFrom v t.code = some t) : classifyWith p v = t :=
  Option.some.inj (by rw [← tokenFrom_code_classifyWith, hcode, ht])

end Sys2Proof.Machine

section
open Sys2Proof Sys2Proof.Machine

/-- Settles O22: FX wires the fields, and every arm answers its variant's operand fields. -/
theorem portsCarryTheToken : Obligations.PortsCarryTheToken :=
  ⟨fxPorts_eq_wordPorts, fun p v => (dtPorts_token_eq_tokenFrom p v).trans (tokenFrom_code_classifyWith p v)⟩

end

/-! ### The words of the fallback -/

namespace Sys2Proof.Machine

/-- Family 0 has two words that are no opaque data (45_opaque_data.md R89). -/
theorem isOpaqueWord_family0 (p : Params) {v : Word} (h : family v = 0x0) :
    IsOpaqueWord p v = (v != 0x00E0#16 && v != 0x00EE#16) := by
  unfold IsOpaqueWord
  rw [show v.extractLsb' 12 4 = 0x0 from h]
  rfl

theorem isOpaqueWord_family8 (p : Params) {v : Word} (h : family v = 0x8) :
    IsOpaqueWord p v = !p.selectors8.contains (fieldN v) := by
  unfold IsOpaqueWord
  rw [show v.extractLsb' 12 4 = 0x8 from h]
  rfl

theorem isOpaqueWord_familyE (p : Params) {v : Word} (h : family v = 0xE) :
    IsOpaqueWord p v = !p.selectorsE.contains (fieldKK v) := by
  unfold IsOpaqueWord
  rw [show v.extractLsb' 12 4 = 0xE from h]
  rfl

theorem isOpaqueWord_familyF (p : Params) {v : Word} (h : family v = 0xF) :
    IsOpaqueWord p v = !p.selectorsF.contains (fieldKK v) := by
  unfold IsOpaqueWord
  rw [show v.extractLsb' 12 4 = 0xF from h]
  rfl

/-- No word of the other twelve families is opaque data (30_encoding.md R42). -/
theorem isOpaqueWord_singleShape (p : Params) {v : Word} (h : family v ∈ shapeFamilies) : IsOpaqueWord p v = false := by
  unfold IsOpaqueWord
  rw [show v.extractLsb' 12 4 = family v from rfl]
  simp only [shapeFamilies, List.mem_cons, List.not_mem_nil, or_false] at h
  rcases h with h | h | h | h | h | h | h | h | h | h | h | h <;> rw [h] <;> rfl

@[simp] theorem isOpaque_opaqueData (v : Word) : (Instr.opaqueData v).isOpaque = true := rfl

@[simp] theorem isOpaque_token (s : SingleShape) (v : Word) : (s.token v).isOpaque = false := by
  cases s <;> rfl

theorem isOpaque_classifyFamily0 (v : Word) :
    (classifyFamily0 v).isOpaque = (v != 0x00E0#16 && v != 0x00EE#16) := by
  obtain ⟨rfl, e⟩ | ⟨rfl, e⟩ | ⟨hclear, hret, e⟩ := classifyFamily0_cases v
  · rw [e]; rfl
  · rw [e]; rfl
  · simp [e, hclear, hret]

theorem isOpaque_classifyFamily8 (p : Params) (v : Word) :
    (classifyFamily8 p v).isOpaque = !p.selectors8.contains (fieldN v) := by
  rcases classifyFamily8_cases p v with
    ⟨hn, e⟩ | ⟨hn, e⟩ | ⟨hn, e⟩ | ⟨hn, e⟩ | ⟨hn, e⟩ | ⟨hn, e⟩ | ⟨hn, e⟩ | ⟨hn, e⟩ | ⟨hn, e⟩ | ⟨hn, e⟩ <;> rw [e]
  on_goal 10 => simp [hn]
  all_goals simp [hn, Params.selectors8, Instr.isOpaque, Instr.code]

theorem isOpaque_classifyFamilyE (p : Params) (v : Word) :
    (classifyFamilyE p v).isOpaque = !p.selectorsE.contains (fieldKK v) := by
  rcases classifyFamilyE_cases p v with ⟨hk, e⟩ | ⟨hk, e⟩ | ⟨hk, e⟩ <;> rw [e]
  on_goal 3 => simp [hk]
  all_goals simp [hk, Params.selectorsE, Instr.isOpaque, Instr.code]

theorem isOpaque_classifyFamilyF (p : Params) (v : Word) :
    (classifyFamilyF p v).isOpaque = !p.selectorsF.contains (fieldKK v) := by
  rcases classifyFamilyF_cases p v with
    ⟨hk, e⟩ | ⟨hk, e⟩ | ⟨hk, e⟩ | ⟨hk, e⟩ | ⟨hk, e⟩ | ⟨hk, e⟩ | ⟨hk, e⟩ | ⟨hk, e⟩ | ⟨hk, e⟩ | ⟨hk, e⟩ <;> rw [e]
  on_goal 10 => simp [hk]
  all_goals simp [hk, Params.selectorsF, Instr.isOpaque, Instr.code]

/-- The dispatch falls through exactly on the words of R89 to R92. -/
theorem isOpaque_classifyWith (p : Params) (v : Word) : (classifyWith p v).isOpaque = IsOpaqueWord p v := by
  obtain ⟨hf, h⟩ | ⟨hf, h⟩ | ⟨hf, h⟩ | ⟨hf, h⟩ | ⟨s, hs, h⟩ := classifyWith_cases p v <;> rw [h]
  · rw [isOpaque_classifyFamily0, isOpaqueWord_family0 p hf]
  · rw [isOpaque_classifyFamily8, isOpaqueWord_family8 p hf]
  · rw [isOpaque_classifyFamilyE, isOpaqueWord_familyE p hf]
  · rw [isOpaque_classifyFamilyF, isOpaqueWord_familyF p hf]
  · rw [isOpaque_token, isOpaqueWord_singleShape p (List.of_mem_zip hs).1]

theorem isOpaque_iff_code {t : Token} : t.isOpaque = true ↔ t.code = 34 := beq_iff_eq

/-- The fallback carries the whole word (45_opaque_data.md R88). -/
theorem classifyWith_of_isOpaqueWord {p : Params} {v : Word} (h : IsOpaqueWord p v = true) :
    classifyWith p v = .opaqueData v :=
  classifyWith_eq_of_code (isOpaque_iff_code.1 ((isOpaque_classifyWith p v).trans h)) rfl

/-! ### The encoder: the word it writes selects the instruction's variant -/

/-- Under an admissible choice every one of the twelve instructions is selected by some family (30_encoding.md R36). -/
theorem mem_shapes_of_nodup {p : Params} (h : p.shapes.Nodup) (s : SingleShape) : s ∈ p.shapes := by
  obtain ⟨hlo, hhi⟩ := singleShape_code_range s
  have hcode : s.code ∈ p.shapes.map SingleShape.code :=
    (codes_shapes_perm h).mem_iff.2 (List.mem_range'_1.2 ⟨hlo, by omega⟩)
  obtain ⟨s', hs', heq⟩ := List.mem_map.1 hcode
  exact singleShape_code_injective.1 heq ▸ hs'

/-- One test of `Params.familyOf`: the instruction is this family's, or it is looked for in the rest. -/
theorem mem_zip_cons_of_ite {s t : SingleShape} {ts : List SingleShape} {f g : Nibble} {fs : List Nibble}
    (hs : s ∈ t :: ts) (hrest : s ∈ ts → (g, s) ∈ fs.zip ts) :
    (if t = s then f else g, s) ∈ (f :: fs).zip (t :: ts) := by
  rw [List.zip_cons_cons]
  by_cases ht : t = s
  · rw [if_pos ht, ht]
    exact List.mem_cons_self
  · rw [if_neg ht]
    exact List.mem_cons_of_mem _ (hrest ((List.mem_cons.1 hs).resolve_left (Ne.symm ht)))

/-- The family that the encoder writes selects the instruction. -/
theorem familyOf_mem {p : Params} {s : SingleShape} (hs : s ∈ p.shapes) : (p.familyOf s, s) ∈ p.familyShapes :=
  mem_zip_cons_of_ite hs fun hs =>
  mem_zip_cons_of_ite hs fun hs =>
  mem_zip_cons_of_ite hs fun hs =>
  mem_zip_cons_of_ite hs fun hs =>
  mem_zip_cons_of_ite hs fun hs =>
  mem_zip_cons_of_ite hs fun hs =>
  mem_zip_cons_of_ite hs fun hs =>
  mem_zip_cons_of_ite hs fun hs =>
  mem_zip_cons_of_ite hs fun hs =>
  mem_zip_cons_of_ite hs fun hs =>
  mem_zip_cons_of_ite hs fun hs =>
  List.mem_singleton.2 (congrArg (Prod.mk 0xD) (List.mem_singleton.1 hs))

/-- It is the only family that does. -/
theorem familyOf_eq_of_mem {p : Params} (h : p.shapes.Nodup) {f : Nibble} {s : SingleShape}
    (hs : (f, s) ∈ p.familyShapes) : p.familyOf s = f :=
  have hnodup : (p.familyShapes.map Prod.snd).Nodup := h
  congrArg Prod.fst (List.inj_on_of_nodup_map hnodup (familyOf_mem (mem_shapes_of_nodup h s)) hs rfl)

/-- A word of family 8 with a variant's selector is of that variant. -/
theorem code_wordXYN_of_mem {p : Params} (hp : p.Admissible) {c : Nat} {sel : Nibble} (h : (c, sel) ∈ p.variants8)
    (x y : RegIndex) : (classifyWith p (wordXYN 0x8 x y sel)).code = c :=
  (code_eq_iff_takes (r := family8Row c sel) hp
    (List.mem_append_left _ (List.mem_append_right _ (rowsFamily8_eq p ▸ List.mem_map.2 ⟨_, h, rfl⟩)))).2
    ((takes_family8Row ..).2 (by simp))

/-- A word of family E with a variant's selector is of that variant. -/
theorem code_wordXK_E_of_mem {p : Params} (hp : p.Admissible) {c : Nat} {sel : Byte} (h : (c, sel) ∈ p.variantsE)
    (x : RegIndex) : (classifyWith p (wordXK 0xE x sel)).code = c :=
  (code_eq_iff_takes (r := lowByteRow c 0xE sel) hp
    (List.mem_append_right _ (rowsFamiliesEF_eq p ▸ List.mem_append_left _ (List.mem_map.2 ⟨_, h, rfl⟩)))).2
    ((takes_lowByteRow ..).2 (by simp))

/-- A word of family F with a variant's selector is of that variant. -/
theorem code_wordXK_F_of_mem {p : Params} (hp : p.Admissible) {c : Nat} {sel : Byte} (h : (c, sel) ∈ p.variantsF)
    (x : RegIndex) : (classifyWith p (wordXK 0xF x sel)).code = c :=
  (code_eq_iff_takes (r := lowByteRow c 0xF sel) hp
    (List.mem_append_right _ (rowsFamiliesEF_eq p ▸ List.mem_append_right _ (List.mem_map.2 ⟨_, h, rfl⟩)))).2
    ((takes_lowByteRow ..).2 (by simp))

/-- A single-shape variant is selected by the family that the encoder writes, and by no other. -/
theorem code_eq_iff_family {p : Params} (hp : p.Admissible) {s : SingleShape} {v : Word} :
    (classifyWith p v).code = s.code ↔ family v = p.familyOf s := by
  have hs : s ∈ p.shapes := mem_shapes_of_nodup (nodup_shapes_of_admissible hp) s
  have hrow : singleShapeRow (wordXYN (p.familyOf s) 0 0 0) s ∈ rowsSingleShape p :=
    rowsSingleShape_eq p ▸ List.mem_map.2 ⟨_, familyOf_mem hs, rfl⟩
  have hr := List.mem_append_left (rowsFamiliesEF p)
    (List.mem_append_left (rowsFamily8 p) (List.mem_append_right rowsFamily0 hrow))
  exact (code_eq_iff_takes hp hr).trans (takes_singleShapeRow ..)

/-- The encoded word selects the instruction's variant. -/
theorem code_classifyWith_encodeWith {p : Params} (hp : p.Admissible) {i : Instr} (hwf : WellFormed p i = true) :
    (classifyWith p (encodeWith p i)).code = i.code := by
  cases i with
  | clearScreen | ret => rw [encodeWith, classifyWith_family0 (by decide)]; rfl
  | jumpToAddress a | callAddress a | loadIndex a | jumpOffset a =>
    exact (code_eq_iff_family hp).2 (family_wordA ..)
  | skipEqualByte x kk | skipNotEqualByte x kk | loadRegisterByte x kk | addByte x kk | randomMask x kk =>
    exact (code_eq_iff_family hp).2 (family_wordXK ..)
  | skipEqualRegister x y | skipNotEqualRegister x y =>
    exact (code_eq_iff_family hp).2 (family_wordXYN ..)
  | drawSprite x y n => exact (code_eq_iff_family hp).2 (family_wordXYN ..)
  | copyRegister x y | orRegister x y | andRegister x y | xorRegister x y | addRegister x y | subtractRegister x y
  | shiftRight x y | subtractReversed x y | shiftLeft x y =>
    exact code_wordXYN_of_mem hp (by simp [Params.variants8, Params.selectors8, List.range', Instr.code]) x y
  | skipKeyPressed x | skipKeyNotPressed x =>
    exact code_wordXK_E_of_mem hp (by simp [Params.variantsE, Params.selectorsE, List.range', Instr.code]) x
  | readDelayTimer x | writeDelayTimer x | writeSoundTimer x | waitKey x | addIndex x | loadFontAddress x | storeBcd x
  | storeRegisters x | loadRegisters x =>
    exact code_wordXK_F_of_mem hp (by simp [Params.variantsF, Params.selectorsF, List.range', Instr.code]) x
  | opaqueData raw => rw [encodeWith, classifyWith_of_isOpaqueWord hwf]

/-- The encoded word's fields are the instruction's operands. -/
theorem tokenFrom_encodeWith (p : Params) (i : Instr) : tokenFrom (encodeWith p i) i.code = some i := by
  cases i <;> simp [tokenFrom, DtPorts.token, wordPorts, encodeWith, Instr.code]

/-- Decoding the encoding: the variant and the operands come back. -/
theorem classifyWith_encodeWith {p : Params} (hp : p.Admissible) {i : Instr} (hwf : WellFormed p i = true) :
    classifyWith p (encodeWith p i) = i :=
  classifyWith_eq_of_code (code_classifyWith_encodeWith hp hwf) (tokenFrom_encodeWith p i)

theorem decodeBytes_wordBytes (v : Word) (rest : List Byte) :
    decodeBytes (wordBytes v ++ rest) = .instr (classify v) rest := by
  change Decoded.instr (classify (fx (highByte v) (lowByte v))) rest = _
  rw [fx_high_low]

end Sys2Proof.Machine

section
open Sys2Proof Sys2Proof.Machine

/-- Settles O20: the encoded word has the variant and, in its fields, the operands of the instruction. -/
theorem encodedInstructionDecodesBack : Obligations.EncodedInstructionDecodesBack := by
  refine ⟨fun _ hp _ => classifyWith_encodeWith hp, fun i rest hwf => ?_⟩
  rw [decodeBytes_wordBytes, classify, encode, classifyWith_encodeWith defaultParams_admissible hwf]

end

/-! ### Encoding the token of a word -/

namespace Sys2Proof.Machine

/-- Mask 0xFFF0 clears the low nibble. -/
theorem and_FFF0 (v : Word) : v &&& 0xFFF0 = wordXYN (family v) (fieldX v) (fieldY v) 0 := by
  have h := wordXYN_and (family v) 0xF (fieldX v) 0xF (fieldY v) 0xF (fieldN v) 0x0
  rwa [wordXYN_fields, nibble_and_F, nibble_and_F, nibble_and_F, nibble_and_0] at h

/-- What the token of a word keeps of it: everything, but for the low nibble in the two shapes `XY_` (30_encoding.md
R43). -/
def keptBits (t : Token) (v : Word) : Word := if t.code = 6 ∨ t.code = 9 then v &&& 0xFFF0 else v

theorem keptBits_of_shapeXY {t : Token} (h : t.code = 6 ∨ t.code = 9) (v : Word) :
    keptBits t v = wordXYN (family v) (fieldX v) (fieldY v) 0 := by
  rw [keptBits, if_pos h, and_FFF0]

theorem wordXYN_of_selector {v : Word} {f n : Nibble} (hf : family v = f) (hn : fieldN v = n) :
    wordXYN f (fieldX v) (fieldY v) n = v := by
  rw [← hf, ← hn, wordXYN_fields]

theorem wordXK_of_selector {v : Word} {f : Nibble} {kk : Byte} (hf : family v = f) (hk : fieldKK v = kk) :
    wordXK f (fieldX v) kk = v := by
  rw [← hf, ← hk, wordXK_fields]

theorem encodeWith_token {p : Params} {s : SingleShape} {v : Word} (hf : p.familyOf s = family v) :
    encodeWith p (s.token v) = keptBits (s.token v) v := by
  cases s with
  | jumpToAddress | callAddress | loadIndex | jumpOffset =>
    exact (congrArg (wordA · (fieldAddr v)) hf).trans (wordA_fields v)
  | skipEqualByte | skipNotEqualByte | loadRegisterByte | addByte | randomMask =>
    exact (congrArg (wordXK · (fieldX v) (fieldKK v)) hf).trans (wordXK_fields v)
  | skipEqualRegister | skipNotEqualRegister =>
    exact (congrArg (wordXYN · (fieldX v) (fieldY v) 0) hf).trans (and_FFF0 v).symm
  | drawSprite => exact (congrArg (wordXYN · (fieldX v) (fieldY v) (fieldN v)) hf).trans (wordXYN_fields v)

theorem encodeWith_classifyFamily0 (p : Params) (v : Word) :
    encodeWith p (classifyFamily0 v) = keptBits (classifyFamily0 v) v := by
  obtain ⟨rfl, e⟩ | ⟨rfl, e⟩ | ⟨_, _, e⟩ := classifyFamily0_cases v <;> rw [e] <;> rfl

theorem encodeWith_classifyFamily8 {p : Params} {v : Word} (hf : family v = 0x8) :
    encodeWith p (classifyFamily8 p v) = keptBits (classifyFamily8 p v) v := by
  rcases classifyFamily8_cases p v with
    ⟨hn, e⟩ | ⟨hn, e⟩ | ⟨hn, e⟩ | ⟨hn, e⟩ | ⟨hn, e⟩ | ⟨hn, e⟩ | ⟨hn, e⟩ | ⟨hn, e⟩ | ⟨hn, e⟩ | ⟨_, e⟩ <;> rw [e]
  on_goal 10 => rfl
  all_goals exact wordXYN_of_selector hf hn

theorem encodeWith_classifyFamilyE {p : Params} {v : Word} (hf : family v = 0xE) :
    encodeWith p (classifyFamilyE p v) = keptBits (classifyFamilyE p v) v := by
  rcases classifyFamilyE_cases p v with ⟨hk, e⟩ | ⟨hk, e⟩ | ⟨_, e⟩ <;> rw [e]
  on_goal 3 => rfl
  all_goals exact wordXK_of_selector hf hk

theorem encodeWith_classifyFamilyF {p : Params} {v : Word} (hf : family v = 0xF) :
    encodeWith p (classifyFamilyF p v) = keptBits (classifyFamilyF p v) v := by
  rcases classifyFamilyF_cases p v with
    ⟨hk, e⟩ | ⟨hk, e⟩ | ⟨hk, e⟩ | ⟨hk, e⟩ | ⟨hk, e⟩ | ⟨hk, e⟩ | ⟨hk, e⟩ | ⟨hk, e⟩ | ⟨hk, e⟩ | ⟨_, e⟩ <;> rw [e]
  on_goal 10 => rfl
  all_goals exact wordXK_of_selector hf hk

/-- A word is its token encoded, as far as the token keeps it. -/
theorem encodeWith_classifyWith {p : Params} (hp : p.Admissible) (v : Word) :
    encodeWith p (classifyWith p v) = keptBits (classifyWith p v) v := by
  obtain ⟨_, h⟩ | ⟨hf, h⟩ | ⟨hf, h⟩ | ⟨hf, h⟩ | ⟨s, hs, h⟩ := classifyWith_cases p v <;> rw [h]
  · exact encodeWith_classifyFamily0 p v
  · exact encodeWith_classifyFamily8 hf
  · exact encodeWith_classifyFamilyE hf
  · exact encodeWith_classifyFamilyF hf
  · exact encodeWith_token (familyOf_eq_of_mem (nodup_shapes_of_admissible hp) hs)

theorem wellFormed_of_not_opaque (p : Params) {t : Token} (h : t.isOpaque = false) : WellFormed p t = true := by
  cases t with
  | opaqueData raw => simp at h
  | _ => rfl

/-- Every token the table yields is well formed (30_encoding.md R32, R88). -/
theorem wellFormed_classifyWith (p : Params) (v : Word) : WellFormed p (classifyWith p v) = true := by
  cases h : IsOpaqueWord p v with
  | true => rw [classifyWith_of_isOpaqueWord h]; exact h
  | false => exact wellFormed_of_not_opaque p ((isOpaque_classifyWith p v).trans h)

/-! ### Words with one token -/

/-- Two words with one token agree in what that token keeps. -/
theorem keptBits_eq_of_classifyWith_eq {p : Params} (hp : p.Admissible) {v w : Word}
    (h : classifyWith p v = classifyWith p w) : keptBits (classifyWith p v) v = keptBits (classifyWith p v) w := by
  rw [← encodeWith_classifyWith hp v, h, encodeWith_classifyWith hp w]

/-- So they are one word, or the token is of a shape `XY_` and they differ in the low nibble only. -/
theorem eq_or_low_nibble_of_classifyWith_eq {p : Params} (hp : p.Admissible) {v w : Word}
    (h : classifyWith p v = classifyWith p w) :
    v = w ∨ ((classifyWith p v).code = 6 ∨ (classifyWith p v).code = 9) ∧
      family w = family v ∧ fieldX w = fieldX v ∧ fieldY w = fieldY v := by
  have hkept := keptBits_eq_of_classifyWith_eq hp h
  by_cases hcode : (classifyWith p v).code = 6 ∨ (classifyWith p v).code = 9
  · rw [keptBits_of_shapeXY hcode, keptBits_of_shapeXY hcode] at hkept
    obtain ⟨hf, hx, hy, _⟩ := wordXYN_injective.1 hkept
    exact .inr ⟨hcode, hf.symm, hx.symm, hy.symm⟩
  · rw [keptBits, keptBits, if_neg hcode, if_neg hcode] at hkept
    exact .inl hkept

/-- The families of R36 are those whose number is none of the four with a secondary dispatch. -/
theorem mem_shapeFamilies_iff {f : Nibble} : f ∈ shapeFamilies ↔ f.toNat ∉ [0x0, 0x8, 0xE, 0xF] := by
  revert f; decide

/-- A word of one of them has the token of the shape whose family it is. -/
theorem exists_shape_of_family {p : Params} (hp : p.Admissible) {v : Word} (h : family v ∈ shapeFamilies) :
    ∃ s, p.familyOf s = family v ∧ classifyWith p v = s.token v := by
  obtain ⟨hf, _⟩ | ⟨hf, _⟩ | ⟨hf, _⟩ | ⟨hf, _⟩ | ⟨s, hs, hc⟩ := classifyWith_cases p v
  · exact absurd (hf ▸ h) (by decide)
  · exact absurd (hf ▸ h) (by decide)
  · exact absurd (hf ▸ h) (by decide)
  · exact absurd (hf ▸ h) (by decide)
  · exact ⟨s, familyOf_eq_of_mem (nodup_shapes_of_admissible hp) hs, hc⟩

end Sys2Proof.Machine

section
open Sys2Proof Sys2Proof.Machine

/-- Settles O21: each arm's selector and operands are all the fields that its token keeps. -/
theorem classifiedWordEncodesBack : Obligations.ClassifiedWordEncodesBack :=
  fun p hp v => ⟨wellFormed_classifyWith p v, encodeWith_classifyWith hp v⟩

/-- Settles O17: by encoding their token, two words with one token agree in what it keeps. -/
theorem onlyTheLowNibbleOfFamiliesFiveAndNineIsIgnored :
    Obligations.OnlyTheLowNibbleOfFamiliesFiveAndNineIsIgnored := by
  refine ⟨fun x y n => ⟨?_, ?_⟩, fun v w h hne => ?_⟩
  · rw [classify, classifyWith_family5 (family_wordXYN ..)]
    simp [SingleShape.token]
  · rw [classify, classifyWith_family9 (family_wordXYN ..)]
    simp [SingleShape.token]
  · obtain ⟨hcode, hfields⟩ := (eq_or_low_nibble_of_classifyWith_eq defaultParams_admissible h).resolve_left hne
    refine ⟨hcode.imp (fun h6 => ?_) (fun h9 => ?_), hfields⟩
    · exact (code_eq_iff_family (s := .skipEqualRegister) defaultParams_admissible).1 h6
    · exact (code_eq_iff_family (s := .skipNotEqualRegister) defaultParams_admissible).1 h9

/-- Settles O7: the variant of a single-shape word is the one its family selects. -/
theorem singleShapeFamiliesSelectByFamilyAlone : Obligations.SingleShapeFamiliesSelectByFamilyAlone := by
  intro p hp v w hv _
  obtain ⟨s, hs, hc⟩ := exists_shape_of_family hp (mem_shapeFamilies_iff.2 hv)
  have hw' : s.code = (classifyWith p w).code ↔ family v = family w := by
    rw [eq_comm, code_eq_iff_family hp, hs, eq_comm]
  rw [hc, isOpaque_token, token_code]
  exact ⟨rfl, hw'⟩

end

/-! ### The rows that take a word -/

namespace Sys2Proof.Machine

theorem nodup_codes_rows {p : Params} (hp : p.Admissible) :
    ((opcodeRows p ++ [fallbackRow]).map OpcodeRow.code).Nodup :=
  (codes_rows_perm (nodup_shapes_of_admissible hp)).nodup_iff.2 List.nodup_range

/-- The fallback row is the row of the opaque words. -/
theorem rowOf_eq_fallbackRow_iff {p : Params} (hp : p.Admissible) {v : Word} :
    rowOf p v = fallbackRow ↔ (classifyWith p v).isOpaque = true := by
  rw [isOpaque_iff_code, (rowAgrees_rowOf p v).code]
  exact ⟨congrArg OpcodeRow.code, List.inj_on_of_nodup_map (nodup_codes_rows hp) (rowOf_mem p v)
    (List.mem_append_right _ (List.mem_singleton_self _))⟩

/-- Of the instruction rows, a word is taken by the row it selects alone. -/
theorem length_filter_takes {p : Params} (hp : p.Admissible) (v : Word) :
    ((opcodeRows p).filter (fun r => r.takes v)).length = if rowOf p v ∈ opcodeRows p then 1 else 0 := by
  have hnodup : (opcodeRows p).Nodup := (List.nodup_append.1 (nodup_codes_rows hp).of_map).1
  rw [← hnodup.count, List.count, ← List.countP_eq_length_filter]
  refine List.countP_congr fun r hr => ?_
  rw [← rowOf_eq_iff_takes hp hr, beq_iff_eq, eq_comm]

theorem rowOf_mem_opcodeRows_iff {p : Params} (hp : p.Admissible) {v : Word} :
    rowOf p v ∈ opcodeRows p ↔ ¬ (classifyWith p v).isOpaque = true := by
  rw [← rowOf_eq_fallbackRow_iff hp]
  have hmem := List.mem_append.1 (rowOf_mem p v)
  have hdisj := (List.nodup_append.1 (nodup_codes_rows hp).of_map).2.2
  exact ⟨fun h => hdisj _ h _ (by simp), fun h => hmem.resolve_right (h ∘ List.mem_singleton.1)⟩

end Sys2Proof.Machine

section
open Sys2Proof Sys2Proof.Machine

/-- Settles O15: of the 34 rows, which are disjoint, the row a word selects is the one that takes it. -/
theorem instructionPatternsAreDisjoint : Obligations.InstructionPatternsAreDisjoint := by
  refine fun p hp => ⟨rfl, (pairwise_disjoint_opcodeRows hp).imp fun hdis v h => hdis v h.1 h.2, fun v => ?_⟩
  rw [length_filter_takes hp]
  simp only [rowOf_mem_opcodeRows_iff hp, ite_not]

end

/-! ### How many words of each family are opaque data -/

namespace Sys2Proof.Machine

/-- Counting the words of a family by the values of one field. -/
theorem card_family_mem {n k : Nat} {f : Nibble} {field : Word → BitVec n}
    (h : ∀ a, (Finset.univ.filter (fun v : Word => family v = f ∧ field v = a)).card = k) (S : Finset (BitVec n)) :
    (Finset.univ.filter (fun v : Word => family v = f ∧ field v ∈ S)).card = S.card * k := by
  rw [Finset.card_eq_sum_card_fiberwise (f := field) (t := S) (fun v hv => (Finset.mem_filter.1 hv).2.2)]
  refine (Finset.sum_congr rfl fun a ha => ?_).trans (by rw [Finset.sum_const, smul_eq_mul])
  rw [← h a, Finset.filter_filter]
  exact congrArg Finset.card (Finset.filter_congr fun v _ =>
    ⟨fun ⟨⟨hf, _⟩, he⟩ => ⟨hf, he⟩, fun ⟨hf, he⟩ => ⟨⟨hf, he ▸ ha⟩, he⟩⟩)

/-- The number of instruction words of a family (30_encoding.md R42). -/
def instrWordCount (f : Nibble) : Nat :=
  if f = 0x0 then 2 else if f = 0x8 then 2304 else if f = 0xE then 32 else if f = 0xF then 144 else 4096

/-- The words of a family that are no opaque data. -/
def instrWords (p : Params) (f : Nibble) : Finset Word :=
  Finset.univ.filter (fun v : Word => family v = f ∧ (classifyWith p v).isOpaque = false)

theorem card_instrWords_family0 (p : Params) : (instrWords p 0x0).card = 2 := by
  have hwords : instrWords p 0x0 = {0x00E0, 0x00EE} := by
    ext v
    rw [instrWords, Finset.mem_filter_univ, isOpaque_classifyWith, Finset.mem_insert, Finset.mem_singleton]
    constructor
    · rintro ⟨hf, h⟩
      rw [isOpaqueWord_family0 p hf] at h
      simpa [or_iff_not_imp_left] using h
    · rintro (rfl | rfl)
      · exact ⟨by decide, isOpaqueWord_family0 p (by decide)⟩
      · exact ⟨by decide, isOpaqueWord_family0 p (by decide)⟩
  rw [hwords, Finset.card_pair (by decide)]

/-- A family with a secondary dispatch has `k` instruction words for each of its `m` selectors. -/
theorem card_instrWords_of_selectors {n k m : Nat} {p : Params} {f : Nibble} {field : Word → BitVec n}
    {sels : List (BitVec n)} (hsels : ∀ {v : Word}, family v = f → IsOpaqueWord p v = !sels.contains (field v))
    (hnodup : sels.Nodup) (hlen : sels.length = m)
    (h : ∀ a, (Finset.univ.filter (fun v : Word => family v = f ∧ field v = a)).card = k) :
    (instrWords p f).card = m * k := by
  rw [← hlen, ← List.toFinset_card_of_nodup hnodup, ← card_family_mem h, instrWords]
  exact congrArg Finset.card (Finset.filter_congr fun v _ => and_congr_right fun hf => by
    simp [isOpaque_classifyWith, hsels hf])

theorem card_instrWords_singleShape (p : Params) {f : Nibble} (hf : f ∈ shapeFamilies) :
    (instrWords p f).card = 4096 := by
  rw [← card_family f, instrWords]
  exact congrArg Finset.card (Finset.filter_congr fun v _ => and_iff_left_of_imp fun h =>
    (isOpaque_classifyWith p v).trans (isOpaqueWord_singleShape p (h ▸ hf)))

theorem card_instrWords {p : Params} (hp : p.Admissible) (f : Nibble) : (instrWords p f).card = instrWordCount f := by
  obtain ⟨⟨h8, _⟩, hE, ⟨hF, _⟩, _⟩ := hp
  have hcases : ∀ f : Nibble, f = 0x0 ∨ f = 0x8 ∨ f = 0xE ∨ f = 0xF ∨ f ∈ shapeFamilies ∧ instrWordCount f = 4096 := by
    decide
  obtain rfl | rfl | rfl | rfl | ⟨hf, hcount⟩ := hcases f
  · exact card_instrWords_family0 p
  · exact (card_instrWords_of_selectors (m := 9) (isOpaqueWord_family8 p) h8 rfl (card_family_fieldN 0x8)).trans
      (by decide)
  · exact (card_instrWords_of_selectors (m := 2) (isOpaqueWord_familyE p) hE rfl (card_family_fieldKK 0xE)).trans
      (by decide)
  · exact (card_instrWords_of_selectors (m := 9) (isOpaqueWord_familyF p) hF rfl (card_family_fieldKK 0xF)).trans
      (by decide)
  · rw [hcount, card_instrWords_singleShape p hf]

/-- Opaque data and instructions share the words out. -/
theorem card_opaque_add_card_not_opaque (p : Params) (P : Word → Prop) [DecidablePred P] :
    (Finset.univ.filter (fun v : Word => P v ∧ (classifyWith p v).isOpaque = true)).card +
      (Finset.univ.filter (fun v : Word => P v ∧ (classifyWith p v).isOpaque = false)).card =
    (Finset.univ.filter P).card := by
  simpa [Finset.filter_filter] using
    Finset.card_filter_add_card_filter_not (s := Finset.univ.filter P) (fun v => (classifyWith p v).isOpaque = true)

theorem card_opaque_family {p : Params} (hp : p.Admissible) (f : Nibble) :
    (Finset.univ.filter (fun v : Word => family v = f ∧ (classifyWith p v).isOpaque = true)).card =
      4096 - instrWordCount f := by
  have h := card_opaque_add_card_not_opaque p (fun v => family v = f)
  have hinstr := card_instrWords hp f
  rw [instrWords] at hinstr
  rw [card_family, hinstr] at h
  omega

theorem card_opaque {p : Params} (hp : p.Admissible) :
    (Finset.univ.filter (fun v : Word => (classifyWith p v).isOpaque = true)).card = 13902 := by
  simp only [isOpaque_iff_code, card_variant_opaque hp]

theorem card_word : Fintype.card Word = 65536 := (FinEnum.card_eq_fintypeCard (α := Word)).symm

end Sys2Proof.Machine

section
open Sys2Proof Sys2Proof.Machine

/-- Settles O13: a family with a secondary dispatch has one share of its words for each selector. -/
theorem opaqueWordCountsOfEachFamily : Obligations.OpaqueWordCountsOfEachFamily := by
  intro p hp
  have hopaque : ∀ f : Nibble, 4096 - instrWordCount f =
      if f = 0x0 then 4094 else if f = 0x8 then 1792 else if f = 0xE then 4064 else if f = 0xF then 3952 else 0 := by
    decide
  refine ⟨fun f => (card_opaque_family hp f).trans (hopaque f), card_instrWords hp, card_opaque hp, ?_,
    fun v => Nat.le_of_lt_succ (code_lt _)⟩
  have h := card_opaque_add_card_not_opaque p (fun _ => True)
  simp only [true_and, Finset.filter_true, card_opaque hp, Finset.card_univ, card_word] at h
  omega

end

/-! ### The fields as numbers -/

section
open Sys2Proof Sys2Proof.Machine

/-- Settles O1: a word is the pair of its two bytes. -/
theorem wordIsHighByteTimes256PlusLowByte : Obligations.WordIsHighByteTimes256PlusLowByte := by
  refine ⟨fun hi lo => ⟨toNat_fx hi lo, ?_, highByte_fx hi lo, lowByte_fx hi lo⟩, fun v => ?_, fx_high_low⟩
  · have := (fx hi lo).isLt
    omega
  · refine ⟨(highByte v, lowByte v), fx_high_low v, ?_⟩
    rintro ⟨hi, lo⟩ rfl
    rw [highByte_fx, lowByte_fx]

end

namespace Sys2Proof.Machine

/-- A slice of `w` bits is a shift and a mask (30_encoding.md R31). -/
theorem toNat_slice_mask (v : Word) (lo w : Nat) :
    (v.extractLsb' lo w).toNat = (v.toNat >>> lo) &&& (2 ^ w - 1) := by
  rw [BitVec.extractLsb'_toNat, Nat.and_two_pow_sub_one_eq_mod]

theorem high_nibble_eq_shift (b : Byte) : (b.extractLsb' 4 4).toNat = b.toNat >>> 4 := by
  rw [toNat_nibble_slice, Nat.shiftRight_eq_div_pow]
  omega

theorem low_nibble_eq_mask (b : Byte) : (b.extractLsb' 0 4).toNat = b.toNat &&& 0xF := by
  rw [toNat_nibble_slice, Nat.and_two_pow_sub_one_eq_mod b.toNat 4]
  omega

end Sys2Proof.Machine

section
open Sys2Proof Sys2Proof.Machine

/-- Settles O2: each accessor is a slice of the word and, on a pair of bytes, of one byte. -/
theorem fieldsAreShiftsAndMasks : Obligations.FieldsAreShiftsAndMasks := by
  refine ⟨fun v => ?_, fun hi lo => ?_, by decide⟩
  · exact ⟨toNat_slice_mask v 12 4, toNat_slice_mask v 8 4, toNat_slice_mask v 4 4, toNat_slice_mask v 0 4,
      toNat_slice_mask v 0 8, toNat_slice_mask v 0 12⟩
  · rw [family_fx, fieldX_fx, fieldY_fx, fieldN_fx, fieldKK_fx, fieldAddr_fx, toNat_append_eq, high_nibble_eq_shift,
      low_nibble_eq_mask, high_nibble_eq_shift, low_nibble_eq_mask]
    exact ⟨rfl, rfl, rfl, rfl, rfl, rfl⟩

/-- Settles O3: division with remainder by 16, 256 and 4096. -/
theorem overlappingFieldsComposeTheWord : Obligations.OverlappingFieldsComposeTheWord := by
  intro v
  have := v.isLt
  rw [toNat_family, toNat_fieldX, toNat_fieldY, toNat_fieldN, toNat_fieldKK, toNat_fieldAddr]
  omega

end

/-! ### Words of one known token -/

namespace Sys2Proof.Machine

/-- A low nibble that is no selector falls through (45_opaque_data.md R90). -/
theorem classifyWith_of_not_mem_selectors8 {p : Params} {x y : RegIndex} {n : Nibble} (h : n ∉ p.selectors8) :
    classifyWith p (wordXYN 0x8 x y n) = .opaqueData (wordXYN 0x8 x y n) :=
  classifyWith_of_isOpaqueWord (by rw [isOpaqueWord_family8 p (family_wordXYN ..)]; simpa using h)

theorem classifyWith_of_not_mem_selectorsE {p : Params} {x : RegIndex} {kk : Byte} (h : kk ∉ p.selectorsE) :
    classifyWith p (wordXK 0xE x kk) = .opaqueData (wordXK 0xE x kk) :=
  classifyWith_of_isOpaqueWord (by rw [isOpaqueWord_familyE p (family_wordXK ..)]; simpa using h)

theorem classifyWith_of_not_mem_selectorsF {p : Params} {x : RegIndex} {kk : Byte} (h : kk ∉ p.selectorsF) :
    classifyWith p (wordXK 0xF x kk) = .opaqueData (wordXK 0xF x kk) :=
  classifyWith_of_isOpaqueWord (by rw [isOpaqueWord_familyF p (family_wordXK ..)]; simpa using h)

/-- The decoder undoes the encoder under the default parameters. -/
theorem classify_encode {i : Instr} (hwf : WellFormed defaultParams i = true) : classify (encode i) = i :=
  classifyWith_encodeWith defaultParams_admissible hwf

end Sys2Proof.Machine

section
open Sys2Proof Sys2Proof.Machine

/-- Settles O11: the words named are the encoder's. -/
theorem defaultSelectorsSelectTheUsualInstructions : Obligations.DefaultSelectorsSelectTheUsualInstructions := by
  intro x y
  refine ⟨classify_encode (i := .orRegister x y) rfl, classify_encode (i := .andRegister x y) rfl,
    classify_encode (i := .xorRegister x y) rfl, classify_encode (i := .addRegister x y) rfl,
    classify_encode (i := .shiftRight x y) rfl, classify_encode (i := .subtractReversed x y) rfl,
    classify_encode (i := .shiftLeft x y) rfl,
    classify_encode (i := .skipKeyPressed x) rfl, classify_encode (i := .skipKeyNotPressed x) rfl,
    classify_encode (i := .readDelayTimer x) rfl, classify_encode (i := .writeDelayTimer x) rfl,
    classify_encode (i := .writeSoundTimer x) rfl, classify_encode (i := .waitKey x) rfl,
    classify_encode (i := .addIndex x) rfl, classify_encode (i := .storeBcd x) rfl,
    classify_encode (i := .storeRegisters x) rfl, classify_encode (i := .loadRegisters x) rfl, fun n hn => ?_,
    fun k hk => ?_, fun k hk => ?_⟩
  · have hrest : ∀ n : Nibble, n ∈ [0x8, 0x9, 0xA, 0xB, 0xC, 0xD, 0xF] → n ∉ defaultParams.selectors8 := by decide
    exact classifyWith_of_not_mem_selectors8 (hrest n hn)
  · exact classifyWith_of_not_mem_selectorsE hk
  · have hrest : ∀ k : Byte, k ∈ defaultParams.selectorsF →
        k ∈ ([0x07, 0x0A, 0x15, 0x18, 0x1E, 0x29, 0x33, 0x55, 0x65] : List Byte) := by decide
    exact classifyWith_of_not_mem_selectorsF (mt (hrest k) hk)

/-- Settles O18: words of the source's own selectors are the encoder's, the others fall through. -/
theorem sourceExamplesHoldForEveryAdmissibleChoice : Obligations.SourceExamplesHoldForEveryAdmissibleChoice := by
  intro p hp
  have ⟨⟨_, h8⟩, _, ⟨_, hF⟩, _, h1, h6⟩ := hp
  refine ⟨classifyWith_encodeWith (i := .clearScreen) hp rfl, classifyWith_encodeWith (i := .ret) hp rfl,
    classifyWith_of_isOpaqueWord rfl, ?_, ?_, classifyWith_encodeWith (i := .copyRegister 1 2) hp rfl,
    classifyWith_encodeWith (i := .subtractRegister 1 2) hp rfl,
    classifyWith_of_not_mem_selectors8 (x := 1) (y := 2) h8,
    classifyWith_encodeWith (i := .loadFontAddress 1) hp rfl, classifyWith_of_not_mem_selectorsF (x := 1) hF⟩
  · rw [classifyWith_family1 (by decide), h1]
    rfl
  · rw [classifyWith_family6 (by decide), h6]
    rfl

end

/-! ### Operands in text -/

namespace Sys2Proof.Machine

/-- A hexadecimal digit stands at its own value in the list of the sixteen. -/
theorem idxOf_hexDigit {n : Nat} (h : n < 16) :
    hexDigit n ∈ ['0', '1', '2', '3', '4', '5', '6', '7', '8', '9', 'a', 'b', 'c', 'd', 'e', 'f'] ∧
    ['0', '1', '2', '3', '4', '5', '6', '7', '8', '9', 'a', 'b', 'c', 'd', 'e', 'f'].idxOf (hexDigit n) = n := by
  revert n; decide

/-- Only the numeral of zero begins with 0. -/
theorem eq_zero_of_head?_decimal {n : Nat} (h : (decimal n).head? = some '0') : n = 0 := by
  induction n using Nat.strongRecOn with
  | ind n ih =>
    unfold decimal at h ih
    rcases Nat.lt_or_ge n 10 with hlt | hge
    · rw [Nat.toDigits_of_lt_base hlt, List.head?_cons] at h
      exact Nat.digitChar_eq_zero.1 (Option.some.inj h)
    · rw [Nat.toDigits_of_base_le (by decide) hge, List.head?_append_of_ne_nil _ Nat.toDigits_ne_nil] at h
      have := ih (n / 10) (by omega) h
      omega

/-- A decimal numeral is its number in digits, without leading zeros (30_encoding.md R46, R48; decision D14). -/
theorem decimal_shortest (n : Nat) :
    (∀ c ∈ decimal n, c.isDigit = true) ∧ (decimal n).foldl (fun m c => 10 * m + (c.toNat - '0'.toNat)) 0 = n ∧
      ((decimal n).length = 1 ∨ (decimal n).head? ≠ some '0') ∧ decimal n ≠ [] := by
  refine ⟨fun c => Nat.isDigit_of_mem_toDigits (by decide) (Nat.le_refl 10), ?_, ?_, Nat.toDigits_ne_nil⟩
  · exact Nat.ofDigitChars_eq_foldl.symm.trans Nat.ofDigitChars_ten_toDigits
  · rcases Nat.eq_zero_or_pos n with rfl | hpos
    · exact .inl rfl
    · exact .inr fun h => absurd (eq_zero_of_head?_decimal h) hpos.ne'

end Sys2Proof.Machine

section
open Sys2Proof Sys2Proof.Machine

/-- Settles O52: the two digits are quotient and remainder by 16. -/
theorem immediateBytesRenderAsTwoLowercaseHexDigits : Obligations.ImmediateBytesRenderAsTwoLowercaseHexDigits := by
  intro b
  obtain ⟨hmem, hval⟩ := idxOf_hexDigit (n := b.toNat / 16) (by omega)
  obtain ⟨hmem', hval'⟩ := idxOf_hexDigit (n := b.toNat % 16) (by omega)
  refine ⟨_, _, rfl, hmem, hmem', ?_⟩
  rw [hval, hval']
  omega

/-- Settles O53: both numerals are `decimal`'s. -/
theorem registersAndAddressesRenderInDecimal : Obligations.RegistersAndAddressesRenderInDecimal :=
  ⟨fun i => ⟨decimal i.toNat, rfl, decimal_shortest i.toNat⟩, fun a => ⟨decimal a.toNat, rfl, decimal_shortest a.toNat⟩⟩

end

/-! ### The two exact matches of family 0 -/

namespace Sys2Proof.Machine

/-- Variants 0 and 1 come from no single shape, so their tokens keep the whole word, admissible parameters or not
(40_family0_screen_return.md R54, R55). -/
theorem encodeWith_classifyWith_of_code_lt_two {p : Params} {v : Word} (h : (classifyWith p v).code < 2) :
    encodeWith p (classifyWith p v) = v := by
  have hkept : encodeWith p (classifyWith p v) = keptBits (classifyWith p v) v := by
    obtain ⟨_, hc⟩ | ⟨hf, hc⟩ | ⟨hf, hc⟩ | ⟨hf, hc⟩ | ⟨s, _, hc⟩ := classifyWith_cases p v <;> rw [hc] at h ⊢
    · exact encodeWith_classifyFamily0 p v
    · exact encodeWith_classifyFamily8 hf
    · exact encodeWith_classifyFamilyE hf
    · exact encodeWith_classifyFamilyF hf
    · rw [token_code] at h
      exact absurd (singleShape_code_range s).1 (by omega)
  rw [hkept, keptBits, if_neg (by omega)]

/-- So no second word has the token of a word of variant 0 or 1. -/
theorem classifyWith_eq_iff_of_code_lt_two {p : Params} {v w : Word} {t : Token} (ht : t.code < 2)
    (hw : classifyWith p w = t) : classifyWith p v = t ↔ v = w := by
  refine ⟨fun hv => ?_, fun h => h ▸ hw⟩
  calc v = encodeWith p (classifyWith p v) := (encodeWith_classifyWith_of_code_lt_two (hv ▸ ht)).symm
    _ = encodeWith p (classifyWith p w) := by rw [hv, hw]
    _ = w := encodeWith_classifyWith_of_code_lt_two (hw ▸ ht)

end Sys2Proof.Machine

section
open Sys2Proof Sys2Proof.Machine

/-- Settles O4: a token of family 0 other than the fallback keeps the whole word, so it has one word. -/
theorem familyZeroComparesTheWholeWord : Obligations.FamilyZeroComparesTheWholeWord := by
  intro p v
  refine ⟨classifyWith_eq_iff_of_code_lt_two (by decide) (classifyWith_family0 (v := 0x00E0) (by decide)),
    classifyWith_eq_iff_of_code_lt_two (by decide) (classifyWith_family0 (v := 0x00EE) (by decide)),
    fun hf hclear hret => classifyWith_of_isOpaqueWord ?_⟩
  rw [isOpaqueWord_family0 p hf]
  simpa using And.intro hclear hret

end

/-! ### The words of a single-shape instruction -/

namespace Sys2Proof.Machine

/-- A token of a single-shape variant comes from the words of the family that selects the variant and from no others,
and its operands are the word's own fields (30_encoding.md R36). -/
theorem classifyWith_eq_iff_of_shape {p : Params} (hp : p.Admissible) {v : Word} {t : Token} (s : SingleShape)
    (ht : t.code = s.code) : classifyWith p v = t ↔ family v = p.familyOf s ∧ t = s.token v := by
  have htoken (hf : family v = p.familyOf s) : classifyWith p v = s.token v := by
    refine classifyWith_eq_of_code ?_ (by cases s <;> rfl)
    rw [token_code, code_eq_iff_family hp, hf]
  constructor
  · intro h
    have hf : family v = p.familyOf s := (code_eq_iff_family hp).1 (by rw [h, ht])
    exact ⟨hf, h.symm.trans (htoken hf)⟩
  · rintro ⟨hf, rfl⟩
    exact htoken hf

/-- The source's first anchor (41_single_shape_families.md R56). -/
theorem familyOf_jumpToAddress {p : Params} (hp : p.Admissible) : p.familyOf .jumpToAddress = 0x1 := by
  obtain ⟨_, _, _, _, h1, _⟩ := hp
  exact if_pos h1

/-- The source's second anchor (41_single_shape_families.md R61): no family before 0x6 selects it too. -/
theorem familyOf_loadRegisterByte {p : Params} (hp : p.Admissible) : p.familyOf .loadRegisterByte = 0x6 := by
  obtain ⟨_, _, _, hnodup, _, h6⟩ := hp
  exact familyOf_eq_of_mem hnodup (by simp [Params.familyShapes, shapeFamilies, Params.shapes, h6])

theorem classifyWith_eq_jumpToAddress {p : Params} (hp : p.Admissible) {v : Word} {a : Addr} :
    classifyWith p v = .jumpToAddress a ↔ family v = 0x1 ∧ a = fieldAddr v := by
  rw [classifyWith_eq_iff_of_shape hp .jumpToAddress rfl, familyOf_jumpToAddress hp, SingleShape.token,
    Instr.jumpToAddress.injEq]

theorem classifyWith_eq_loadRegisterByte {p : Params} (hp : p.Admissible) {v : Word} {x : RegIndex} {kk : Byte} :
    classifyWith p v = .loadRegisterByte x kk ↔ family v = 0x6 ∧ x = fieldX v ∧ kk = fieldKK v := by
  rw [classifyWith_eq_iff_of_shape hp .loadRegisterByte rfl, familyOf_loadRegisterByte hp, SingleShape.token,
    Instr.loadRegisterByte.injEq]

end Sys2Proof.Machine

section
open Sys2Proof Sys2Proof.Machine

/-- Settles O5: both anchors stand in every admissible pairing, and the examples are words of their families. -/
theorem anchoredFamiliesSelectJumpAndLoadByte : Obligations.AnchoredFamiliesSelectJumpAndLoadByte := by
  intro p hp v
  have hjump {w : Word} {a : Addr} := classifyWith_eq_jumpToAddress hp (v := w) (a := a)
  have hload {w : Word} {x : RegIndex} {kk : Byte} :=
    classifyWith_eq_loadRegisterByte hp (v := w) (x := x) (kk := kk)
  exact ⟨fun _ => hjump, fun _ _ => hload, hjump.2 (by decide), hjump.2 (by decide), hjump.2 (by decide),
    hload.2 (by decide), hload.2 (by decide), hload.2 (by decide)⟩

end

/-! ### The words of a selector in family 8 -/

namespace Sys2Proof.Machine

/-- A token that keeps the whole word comes from its encoding and from no other word. -/
theorem classifyWith_eq_iff_encodeWith {p : Params} (hp : p.Admissible) {v : Word} {t : Token}
    (hwf : WellFormed p t = true) (hkept : keptBits t v = v) : classifyWith p v = t ↔ v = encodeWith p t := by
  constructor
  · rintro rfl
    exact hkept.symm.trans (encodeWith_classifyWith hp v).symm
  · rintro rfl
    exact classifyWith_encodeWith hp hwf

theorem eq_wordXYN_iff {v : Word} {f n : Nibble} {x y : RegIndex} :
    v = wordXYN f x y n ↔ family v = f ∧ fieldN v = n ∧ x = fieldX v ∧ y = fieldY v := by
  constructor
  · rintro rfl
    simp
  · rintro ⟨hf, hn, rfl, rfl⟩
    exact (wordXYN_of_selector hf hn).symm

/-- So a token encoded by family, x, y and low nibble comes from the words that have these four fields
(30_encoding.md R38). -/
theorem classifyWith_eq_iff_of_wordXYN {p : Params} (hp : p.Admissible) {v : Word} {t : Token} {f n : Nibble}
    {x y : RegIndex} (hwf : WellFormed p t = true) (hkept : keptBits t v = v) (henc : encodeWith p t = wordXYN f x y n) :
    classifyWith p v = t ↔ family v = f ∧ fieldN v = n ∧ x = fieldX v ∧ y = fieldY v := by
  rw [classifyWith_eq_iff_encodeWith hp hwf hkept, henc, eq_wordXYN_iff]

end Sys2Proof.Machine

section
open Sys2Proof Sys2Proof.Machine

/-- Settles O8: the encoder writes a token of family 8 as 0x8, x, y and the token's own selector. -/
theorem familyEightSelectsByLowNibble : Obligations.FamilyEightSelectsByLowNibble := by
  intro p hp v
  have hcopy {w : Word} {x y : RegIndex} :=
    classifyWith_eq_iff_of_wordXYN hp (v := w) (t := .copyRegister x y) rfl rfl rfl
  have hsubtract {w : Word} {x y : RegIndex} :=
    classifyWith_eq_iff_of_wordXYN hp (v := w) (t := .subtractRegister x y) rfl rfl rfl
  refine ⟨fun _ _ => hcopy,
    fun x y => classifyWith_eq_iff_of_wordXYN hp (t := .orRegister x y) rfl rfl rfl,
    fun x y => classifyWith_eq_iff_of_wordXYN hp (t := .andRegister x y) rfl rfl rfl,
    fun x y => classifyWith_eq_iff_of_wordXYN hp (t := .xorRegister x y) rfl rfl rfl,
    fun x y => classifyWith_eq_iff_of_wordXYN hp (t := .addRegister x y) rfl rfl rfl,
    fun _ _ => hsubtract,
    fun x y => classifyWith_eq_iff_of_wordXYN hp (t := .shiftRight x y) rfl rfl rfl,
    fun x y => classifyWith_eq_iff_of_wordXYN hp (t := .subtractReversed x y) rfl rfl rfl,
    fun x y => classifyWith_eq_iff_of_wordXYN hp (t := .shiftLeft x y) rfl rfl rfl,
    fun hf hn => ?_,
    hcopy.2 (by decide), hcopy.2 (by decide), hcopy.2 (by decide),
    hsubtract.2 (by decide), hsubtract.2 (by decide), hsubtract.2 (by decide)⟩
  rw [← wordXYN_of_selector hf rfl]
  exact classifyWith_of_not_mem_selectors8 hn

end

/-! ### The words of a selector in families E and F -/

namespace Sys2Proof.Machine

theorem eq_wordXK_iff {v : Word} {f : Nibble} {x : RegIndex} {kk : Byte} :
    v = wordXK f x kk ↔ family v = f ∧ fieldKK v = kk ∧ x = fieldX v := by
  constructor
  · rintro rfl
    simp
  · rintro ⟨hf, hk, rfl⟩
    exact (wordXK_of_selector hf hk).symm

/-- A token encoded by family, x and low byte, all of them kept, comes from the words that have these three fields
(30_encoding.md R39, R40). -/
theorem classifyWith_eq_iff_of_wordXK {p : Params} (hp : p.Admissible) {v : Word} {t : Token} {f : Nibble}
    {x : RegIndex} {kk : Byte} (hwf : WellFormed p t = true) (hkept : keptBits t v = v)
    (henc : encodeWith p t = wordXK f x kk) :
    classifyWith p v = t ↔ family v = f ∧ fieldKK v = kk ∧ x = fieldX v := by
  rw [classifyWith_eq_iff_encodeWith hp hwf hkept, henc, eq_wordXK_iff]

end Sys2Proof.Machine

section
open Sys2Proof Sys2Proof.Machine

/-- Settles O9: the encoder writes a token of family E as 0xE, x and the token's own selector. -/
theorem familyESelectsByLowByte : Obligations.FamilyESelectsByLowByte := by
  intro p hp v
  refine ⟨fun x => classifyWith_eq_iff_of_wordXK hp (t := .skipKeyPressed x) rfl rfl rfl,
    fun x => classifyWith_eq_iff_of_wordXK hp (t := .skipKeyNotPressed x) rfl rfl rfl,
    fun hf hskp hsknp => ?_⟩
  have hmem : fieldKK v ∉ p.selectorsE := by simp [Params.selectorsE, hskp, hsknp]
  rw [← wordXK_of_selector hf rfl]
  exact classifyWith_of_not_mem_selectorsE hmem

/-- Settles O10: the encoder writes a token of family F as 0xF, x and the token's own selector. -/
theorem familyFSelectsByLowByte : Obligations.FamilyFSelectsByLowByte := by
  intro p hp v
  have hfont {w : Word} {x : RegIndex} :=
    classifyWith_eq_iff_of_wordXK hp (v := w) (t := .loadFontAddress x) rfl rfl rfl
  refine ⟨fun x => classifyWith_eq_iff_of_wordXK hp (t := .readDelayTimer x) rfl rfl rfl,
    fun x => classifyWith_eq_iff_of_wordXK hp (t := .writeDelayTimer x) rfl rfl rfl,
    fun x => classifyWith_eq_iff_of_wordXK hp (t := .writeSoundTimer x) rfl rfl rfl,
    fun x => classifyWith_eq_iff_of_wordXK hp (t := .waitKey x) rfl rfl rfl,
    fun x => classifyWith_eq_iff_of_wordXK hp (t := .addIndex x) rfl rfl rfl,
    fun _ => hfont,
    fun x => classifyWith_eq_iff_of_wordXK hp (t := .storeBcd x) rfl rfl rfl,
    fun x => classifyWith_eq_iff_of_wordXK hp (t := .storeRegisters x) rfl rfl rfl,
    fun x => classifyWith_eq_iff_of_wordXK hp (t := .loadRegisters x) rfl rfl rfl,
    fun hf hk => ?_,
    hfont.2 (by decide), hfont.2 (by decide), hfont.2 (by decide)⟩
  rw [← wordXK_of_selector hf rfl]
  exact classifyWith_of_not_mem_selectorsF hk

end

/-! ## The sequencer: what a step and a run do, and the decode of a whole buffer (46_sequencer.md R94 to R101) -/

/-! ### Every instruction completes -/

namespace Sys2Proof.Machine

/-- Each of the 35 meanings answers R95's effect with the instruction as the token. -/
theorem exec_eq_next (i : Instr) (s : State) : exec i s = .next (s.withToken i) := exec_next_iff.2 rfl

end Sys2Proof.Machine

section
open Sys2Proof Sys2Proof.Machine

/-- Settles O23: both meanings are R95's effect. -/
theorem familyZeroInstructionsComplete : Obligations.FamilyZeroInstructionsComplete :=
  fun s => ⟨exec_eq_next .clearScreen s, exec_eq_next .ret s⟩

/-- Settles O24: all twelve meanings are R95's effect. -/
theorem singleShapeInstructionsComplete : Obligations.SingleShapeInstructionsComplete := by
  intro s x y n kk a
  simp only [exec_eq_next, and_self]

/-- Settles O25: all nine meanings are R95's effect. -/
theorem familyEightInstructionsComplete : Obligations.FamilyEightInstructionsComplete := by
  intro s x y
  simp only [exec_eq_next, and_self]

/-- Settles O26: all eleven meanings are R95's effect, wait-key's too. -/
theorem familyEAndFInstructionsComplete : Obligations.FamilyEAndFInstructionsComplete := by
  intro s x
  simp only [exec_eq_next, and_self]

/-- Settles O27: the fallback's meaning is R95's effect. -/
theorem opaqueDataCompletes : Obligations.OpaqueDataCompletes := fun s raw => exec_eq_next (.opaqueData raw) s

end

/-! ### The fetch, and a step on the word fetched -/

namespace Sys2Proof.Machine

/-- The value of the word at the cursor, its high byte at the lower offset (46_sequencer.md R94). -/
theorem toNat_cursorWord (s : State) :
    s.cursorWord.toNat = (Memory.read s.buf s.cursor).toNat * 256 + (Memory.read s.buf (s.cursor + 1)).toNat :=
  toNat_fx _ _

/-- The stop test as R95 writes it: fewer than two bytes remain. -/
theorem ended_of_remain_lt {s : State} (h : s.len - s.cursor < 2) : s.ended = true :=
  (ended_iff s).2 (by omega)

theorem not_ended_of_remain_ge {s : State} (h : s.len - s.cursor ≥ 2) : s.ended = false :=
  (not_ended_iff s).2 (by omega)

/-- Where a word is fetched, a step appends its classification (R95). -/
theorem step_of_fetchWord {s : State} {v : Word} {t : Token} (h : fetchWord s = some v) (ht : classify v = t) :
    step s = .next (s.withToken t) := by
  obtain ⟨hroom, rfl⟩ := fetchWord_eq_some.1 h
  exact ht ▸ step_of_running ((not_ended_iff s).2 hroom)

/-! ### The bytes from the cursor on -/

theorem remaining_length (s : State) : s.remaining.length = s.len - s.cursor := by
  rw [State.remaining, List.length_drop, bytes_length]

/-- A token consumes two bytes. -/
theorem remaining_withToken (s : State) (t : Token) : (s.withToken t).remaining = s.remaining.drop 2 :=
  List.drop_drop.symm

/-- In a running session the bytes from the cursor on start with the two bytes of the word at the cursor. -/
theorem remaining_of_running {s : State} (h : s.ended = false) :
    s.remaining =
      Memory.read s.buf s.cursor :: Memory.read s.buf (s.cursor + 1) :: s.remaining.drop 2 := by
  have hroom : s.cursor + 2 ≤ s.len := (not_ended_iff s).1 h
  have hbyte (i : Nat) (hi : i < s.bytes.length) : s.bytes[i] = Memory.read s.buf i := by simp [State.bytes]
  have hlen : s.bytes.length = s.len := bytes_length s
  rw [State.remaining, List.drop_drop, List.drop_eq_getElem_cons (by omega), List.drop_eq_getElem_cons (by omega),
    hbyte, hbyte]

/-- So the decoder reads from them the instruction that the next step runs, and leaves what remains after it. -/
theorem decodeBytes_remaining_of_running {s : State} (h : s.ended = false) :
    decodeBytes s.remaining = .instr (classify s.cursorWord) (s.remaining.drop 2) := by
  rw [remaining_of_running h]
  rfl

/-- The decoder rejects only a sequence too short for a word (46_sequencer.md R96). -/
theorem length_lt_two_of_decodeBytes_rejected {bs : List Byte} {r : DecodeReject}
    (h : decodeBytes bs = .rejected r) : bs.length < 2 := by
  match bs, h with
  | [], _ => exact Nat.zero_lt_two
  | [_], _ => exact Nat.one_lt_two

/-- And it reads an instruction only from one that is long enough. -/
theorem two_le_length_of_decodeBytes_instr {bs rest : List Byte} {i : Instr}
    (h : decodeBytes bs = .instr i rest) : 2 ≤ bs.length := by
  match bs, h with
  | _ :: _ :: _, _ => exact Nat.le_add_left ..

end Sys2Proof.Machine

section
open Sys2Proof Sys2Proof.Machine

/-- Settles O30: two bytes remain exactly where the session has not ended. -/
theorem stepAppendsTheClassifiedWord : Obligations.StepAppendsTheClassifiedWord := by
  refine ⟨fun s v hroom hv => ?_, fun s t hshort hstep => ?_⟩
  · obtain rfl : v = s.cursorWord := BitVec.eq_of_toNat_eq (hv.trans (toNat_cursorWord s).symm)
    exact step_of_running (not_ended_of_remain_ge hroom)
  · rw [step_of_ended (ended_of_remain_lt hshort)] at hstep
    obtain rfl := Host.Outcome.next.inj hstep
    exact ⟨rfl, rfl⟩

/-- Settles O29: the word fetched is the one at the cursor, and its two bytes are the buffer's. -/
theorem fetchReadsThePairBigEndian : Obligations.FetchReadsThePairBigEndian := by
  refine fun s => ⟨fun hroom => ?_, fun hshort => fetchWord_eq_none.2 (ended_of_remain_lt hshort)⟩
  refine ⟨s.cursorWord, fetchWord_of_running (not_ended_of_remain_ge hroom), toNat_cursorWord s, ?_, ?_⟩
  · exact readByte_eq_some.2 ⟨by omega, highByte_fx _ _⟩
  · exact readByte_eq_some.2 ⟨by omega, lowByte_fx _ _⟩

/-- Settles O31: the decoder reads the word at the cursor in a running session, and rejects the rest of an ended one. -/
theorem stepRunsTheDecodedInstruction : Obligations.StepRunsTheDecodedInstruction := by
  refine ⟨fun s i rest h => ?_, fun s r h => ?_⟩
  · have hrun : s.ended = false := by
      have := two_le_length_of_decodeBytes_instr h
      rw [remaining_length] at this
      exact not_ended_of_remain_ge this
    obtain ⟨rfl, rfl⟩ := Decoded.instr.inj ((decodeBytes_remaining_of_running hrun).symm.trans h)
    refine ⟨(step_of_running hrun).trans (exec_eq_next _ s).symm, fun t hstep => ?_⟩
    obtain rfl := Host.Outcome.next.inj ((step_of_running hrun).symm.trans hstep)
    exact remaining_withToken s _
  · have hend : s.ended = true := by
      have := length_lt_two_of_decodeBytes_rejected h
      rw [remaining_length] at this
      exact ended_of_remain_lt this
    exact ⟨hend, step_of_ended hend⟩

/-- Settles O32: a step appends the classification of the word, which the selector laws of families 0, 8, E and F give
under the default parameters. -/
theorem stepOnSecondaryDispatchFamilies : Obligations.StepOnSecondaryDispatchFamilies := by
  intro s v hfetch
  have hstep {t : Token} : classify v = t → step s = .next (s.withToken t) := step_of_fetchWord hfetch
  obtain ⟨hclear, hret, hrest0⟩ := familyZeroComparesTheWholeWord defaultParams v
  obtain ⟨hcopy, hor, hand, hxor, hadd, hsub, hshr, hsubn, hshl, hrest8, _⟩ :=
    familyEightSelectsByLowNibble defaultParams defaultParams_admissible v
  obtain ⟨hskp, hsknp, hrestE⟩ := familyESelectsByLowByte defaultParams defaultParams_admissible v
  obtain ⟨hrdt, hwdt, hwst, hkey, haddi, hfont, hbcd, hstore, hload, hrestF, _⟩ :=
    familyFSelectsByLowByte defaultParams defaultParams_admissible v
  refine ⟨fun h => hstep (hclear.2 h), fun h => hstep (hret.2 h), fun hf h h' => hstep (hrest0 hf h h'),
    fun hf hn => hstep ((hcopy _ _).2 ⟨hf, hn, rfl, rfl⟩), fun hf hn => hstep ((hor _ _).2 ⟨hf, hn, rfl, rfl⟩),
    fun hf hn => hstep ((hand _ _).2 ⟨hf, hn, rfl, rfl⟩), fun hf hn => hstep ((hxor _ _).2 ⟨hf, hn, rfl, rfl⟩),
    fun hf hn => hstep ((hadd _ _).2 ⟨hf, hn, rfl, rfl⟩), fun hf hn => hstep ((hsub _ _).2 ⟨hf, hn, rfl, rfl⟩),
    fun hf hn => hstep ((hshr _ _).2 ⟨hf, hn, rfl, rfl⟩), fun hf hn => hstep ((hsubn _ _).2 ⟨hf, hn, rfl, rfl⟩),
    fun hf hn => hstep ((hshl _ _).2 ⟨hf, hn, rfl, rfl⟩), fun hf hn => hstep (hrest8 hf ?_),
    fun hf hk => hstep ((hskp _).2 ⟨hf, hk, rfl⟩), fun hf hk => hstep ((hsknp _).2 ⟨hf, hk, rfl⟩),
    fun hf hk => hstep (hrestE hf ?_ ?_),
    fun hf hk => hstep ((hrdt _).2 ⟨hf, hk, rfl⟩), fun hf hk => hstep ((hwdt _).2 ⟨hf, hk, rfl⟩),
    fun hf hk => hstep ((hwst _).2 ⟨hf, hk, rfl⟩), fun hf hk => hstep ((hkey _).2 ⟨hf, hk, rfl⟩),
    fun hf hk => hstep ((haddi _).2 ⟨hf, hk, rfl⟩), fun hf hk => hstep ((hfont _).2 ⟨hf, hk, rfl⟩),
    fun hf hk => hstep ((hbcd _).2 ⟨hf, hk, rfl⟩), fun hf hk => hstep ((hstore _).2 ⟨hf, hk, rfl⟩),
    fun hf hk => hstep ((hload _).2 ⟨hf, hk, rfl⟩), fun hf hk => hstep (hrestF hf (mt ?_ hk))⟩
  · have hunmatched : ∀ n : Nibble, n.toNat ∈ [8, 9, 10, 11, 12, 13, 15] → n ∉ defaultParams.selectors8 := by
      decide
    exact hunmatched _ hn
  · exact fun h => hk (by simp [h])
  · exact fun h => hk (by simp [h])
  · have hlisted : ∀ k ∈ defaultParams.selectorsF,
        k ∈ ([0x07, 0x0A, 0x15, 0x18, 0x1E, 0x29, 0x33, 0x55, 0x65] : List Byte) := by decide
    exact hlisted _

/-- Settles O33: a step appends the classification of the word, which the family alone gives. -/
theorem stepOnSingleShapeFamilies : Obligations.StepOnSingleShapeFamilies := by
  intro s v hfetch
  have hstep {t : Token} : classify v = t → step s = .next (s.withToken t) := step_of_fetchWord hfetch
  exact ⟨fun hf => hstep (classifyWith_family1 hf), fun hf => hstep (classifyWith_family2 hf),
    fun hf => hstep (classifyWith_family3 hf), fun hf => hstep (classifyWith_family4 hf),
    fun hf => hstep (classifyWith_family5 hf), fun hf => hstep (classifyWith_family6 hf),
    fun hf => hstep (classifyWith_family7 hf), fun hf => hstep (classifyWith_family9 hf),
    fun hf => hstep (classifyWith_familyA hf), fun hf => hstep (classifyWith_familyB hf),
    fun hf => hstep (classifyWith_familyC hf), fun hf => hstep (classifyWith_familyD hf)⟩

end

/-! ### The decode of a byte sequence, pair by pair -/

namespace Sys2Proof.Machine

/-- The first pair decodes to the first token, and the rest decodes as if it stood alone. -/
theorem decodeSession_cons_cons (hi lo : Byte) (bs : List Byte) :
    decodeSession (hi :: lo :: bs) = classify (fx hi lo) :: decodeSession bs := by
  have hcount : (hi :: lo :: bs).length / 2 = bs.length / 2 + 1 := Nat.add_div_right _ Nat.two_pos
  rw [decodeSession, hcount, List.range_succ_eq_map, List.map_cons, List.map_map]
  rfl

/-- One byte alone makes no word (20_memory.md R21). -/
theorem decodeSession_singleton (b : Byte) : decodeSession [b] = [] := by
  simp [decodeSession]

theorem decodeSession_length (bs : List Byte) : (decodeSession bs).length = bs.length / 2 := by
  simp [decodeSession]

theorem sweep_eq_decodeSession (bs : List Byte) : sweep bs = decodeSession bs := by
  match bs with
  | [] => rfl
  | [b] => exact (decodeSession_singleton b).symm
  | hi :: lo :: bs => rw [sweep, decodeSession_cons_cons, sweep_eq_decodeSession bs]

/-- At an even offset a pair boundary stands, so the decode splits there (46_sequencer.md R101). -/
theorem decodeSession_append {bs : List Byte} (h : bs.length % 2 = 0) (cs : List Byte) :
    decodeSession (bs ++ cs) = decodeSession bs ++ decodeSession cs := by
  match bs with
  | [] => rfl
  | [_] => exact absurd h Nat.one_ne_zero
  | hi :: lo :: bs =>
    have hbs : bs.length % 2 = 0 := (Nat.add_mod_right bs.length 2).symm.trans h
    rw [List.cons_append, List.cons_append, decodeSession_cons_cons, decodeSession_cons_cons, decodeSession_append hbs]
    rfl

/-- Byte pairs decode one by one. -/
theorem decodeSession_pairs (ps : List (Byte × Byte)) :
    decodeSession (ps.flatMap (fun q => [q.1, q.2])) = ps.map (fun q => classify (fx q.1 q.2)) := by
  induction ps with
  | nil => rfl
  | cons q ps ih => exact (decodeSession_cons_cons q.1 q.2 _).trans (congrArg _ ih)

end Sys2Proof.Machine

section
open Sys2Proof Sys2Proof.Machine

/-- Settles O43, by induction on the pairs. -/
theorem pairwiseSweepEqualsIndexedDecode : Obligations.PairwiseSweepEqualsIndexedDecode := sweep_eq_decodeSession

/-- Settles O44, by the two inductions over the pairs. -/
theorem eachPairDecodesOnItsOwn : Obligations.EachPairDecodesOnItsOwn :=
  ⟨decodeSession_pairs, fun _ cs h => decodeSession_append h cs⟩

end

/-! ### What a run computes -/

namespace Sys2Proof.Machine

theorem run_total (k : Nat) (s : State) : ∃ t, run k s = .next t := by
  induction k generalizing s with
  | zero => exact ⟨s, rfl⟩
  | succ k ih =>
    obtain ⟨u, hstep⟩ := step_total s
    obtain ⟨t, hrun⟩ := ih u
    exact ⟨t, (run_succ k hstep).trans hrun⟩

/-- An ended session is final (46_sequencer.md R96). -/
theorem run_next_of_ended {k : Nat} {s t : State} (hend : s.ended = true) (h : run k s = .next t) : t = s := by
  refine run_keeps (P := fun u => u = s) (fun u u' hu hstep => ?_) rfl h
  subst hu
  exact (Host.Outcome.next.inj ((step_of_ended hend).symm.trans hstep)).symm

/-- Where the cursor stands after a run: 2 further for each step that the rest of the buffer has a word for,
whatever its bytes are (46_sequencer.md R98, R101). -/
theorem run_next_cursor {k : Nat} {s t : State} (h : run k s = .next t) :
    t.cursor = s.cursor + 2 * min k ((s.len - s.cursor) / 2) := by
  induction k generalizing s with
  | zero =>
    obtain rfl : s = t := Host.Outcome.next.inj h
    simp
  | succ k ih =>
    obtain ⟨u, hstep, hrun⟩ := run_succ_next h
    have hcur := ih hrun
    obtain ⟨hend, rfl⟩ | ⟨hrunning, rfl⟩ := step_next_cases hstep
    · have := (ended_iff u).1 hend
      omega
    · have := (not_ended_iff s).1 hrunning
      rw [withToken_cursor, withToken_len] at hcur
      omega

/-- `decode(buf)` of a started session is that of the host's bytes. -/
theorem decoded_start (bs : List Byte) : (State.start bs).decoded = decodeSession bs := by
  simp only [State.decoded, State.wordAt, decodeSession, start_len, start_buf, Memory.read_ofBytes, unlistedByte]

/-- A run from a start computes the first tokens of `decode(buf)`, as many as the cursor says (R11, R98). -/
theorem run_start (bs : List Byte) (k : Nat) :
    run k (State.start bs) =
      .next { State.start bs with cursor := 2 * min k (bs.length / 2), out := (decodeSession bs).take k } := by
  obtain ⟨t, hrun⟩ := run_total k (State.start bs)
  have hinput : t.input = (State.start bs).input := run_next_input hrun
  have hlen : t.len = (State.start bs).len := congrArg SessionInput.len hinput
  have hbuf : t.buf = (State.start bs).buf := congrArg SessionInput.buf hinput
  have hcur : t.cursor = 2 * min k (bs.length / 2) := by simpa using run_next_cursor hrun
  have inv : SessionInv t := run_keeps (fun _ _ inv hstep => inv.of_step hstep) (sessionInv_start bs) hrun
  have hout : t.out = (decodeSession bs).take k := by
    rw [inv.out_eq_take_decoded, decoded_congr hlen hbuf, decoded_start, hcur, Nat.mul_div_cancel_left _ Nat.two_pos,
      ← decodeSession_length, ← List.take_eq_take_min]
  rw [hrun]
  exact congrArg _ (State.ext_fields hlen hbuf hcur hout)

end Sys2Proof.Machine

section
open Sys2Proof Sys2Proof.Machine

/-- Settles O35: the stop test is arithmetic on the cursor and the length, and an ended session's step keeps
the state. -/
theorem sessionEndsWhenFewerThanTwoBytesRemain : Obligations.SessionEndsWhenFewerThanTwoBytesRemain := by
  refine ⟨ended_iff, fun s inv => ?_, fun s m ts => ended_congr rfl rfl, fun s t k hend hrun => ?_⟩
  · have hle : s.cursor ≤ s.len := inv.cursor_le_len
    have heven : s.cursor % 2 = 0 := inv.cursor_even
    rw [ended_iff]
    omega
  · obtain rfl := run_next_of_ended hend hrun
    exact ⟨hend, rfl, rfl, rfl, rfl⟩

/-- Settles O41: a run keeps the invariant, and so its cursor says how much of `decode(buf)` the output is. -/
theorem runComputesTheDecodedBuffer : Obligations.RunComputesTheDecodedBuffer := run_start

/-- Settles O42: a trailing byte is a concatenation at an even offset, and the steps are counted by the cursor. -/
theorem sessionLengthLaw : Obligations.SessionLengthLaw := by
  refine ⟨rfl, decodeSession_length, fun bs b h => ?_, fun bs k t hrun => ?_⟩
  · rw [decodeSession_append h, decodeSession_singleton, List.append_nil]
  · obtain rfl := Host.Outcome.next.inj ((run_start bs k).symm.trans hrun)
    rw [ended_iff, start_len]
    dsimp only
    omega

/-- Settles O45: where the cursor goes is told by cursor and length, and it counts the tokens. -/
theorem noByteMovesTheCursor : Obligations.NoByteMovesTheCursor := by
  intro k s t t' m hrun hrun'
  have hcur : t.cursor = t'.cursor := (run_next_cursor hrun).trans (run_next_cursor hrun').symm
  obtain ⟨ts, hout, _, hts⟩ := run_next_extends_out hrun
  obtain ⟨ts', hout', _, hts'⟩ := run_next_extends_out hrun'
  have hcount : ts.length = ts'.length := by
    have := hts.symm.trans (hcur.trans hts')
    dsimp only at this
    omega
  exact ⟨hcur, by rw [hout, hout', List.length_append, List.length_append, hcount]⟩

end

/-! ## Exceptions (spec/60_exceptions.md) -/

section
open Sys2Proof Sys2Proof.Machine

/-- Settles O34: `step_total` gives every step its next state, ended or running, and every instruction completes with
its token appended. -/
theorem noStepFaultsOrIsRefused : Obligations.NoStepFaultsOrIsRefused :=
  ⟨step_total, fun i s => ⟨s.withToken i, exec_eq_next i s⟩⟩

end

/-! ## Reset and hazards (spec/70_reset_and_hazards.md) -/

namespace Sys2Proof.Machine

/-- The host gets the output of an ended session, and nothing of a running one (R117, R119). -/
theorem handOver_eq_ite (s : State) : s.handOver = if s.ended then some s.out else none := by
  unfold State.handOver State.phase
  cases s.ended <;> rfl

/-- A run from a start has ended exactly when it has a step for each word of the buffer (46_sequencer.md R98). -/
theorem ended_of_run_start_iff {bs : List Byte} {k : Nat} {t : State} (h : run k (State.start bs) = .next t) :
    t.ended = true ↔ bs.length / 2 ≤ k := by
  obtain ⟨_, _, _, hruns⟩ := sessionLengthLaw
  obtain ⟨hended, _⟩ := hruns bs k t h
  exact hended

theorem out_of_run_start {bs : List Byte} {k : Nat} {t : State} (h : run k (State.start bs) = .next t) :
    t.out = (decodeSession bs).take k := by
  obtain rfl := Host.Outcome.next.inj ((run_start bs k).symm.trans h)
  rfl

/-- A step runs the instruction of the word it fetches. -/
theorem step_eq_exec_of_fetchWord {s : State} {v : Word} (h : fetchWord s = some v) :
    step s = exec (classify v) s :=
  (step_of_fetchWord h rfl).trans (exec_eq_next _ s).symm

theorem decodeTableWord_eq_classify (nbits w : Nat) :
    decodeTableWord nbits w = some (classify (tableWord nbits w)) := by
  have h : decodeBytes (wordBytes (tableWord nbits w)) = .instr (classify (tableWord nbits w)) [] :=
    decodeBytes_wordBytes (tableWord nbits w) []
  rw [decodeTableWord, h]

/-- The frame of the host's load of one word: every byte but the two at the cursor (R114). -/
theorem read_placeWord_of_ne {s : State} (hwf : Memory.wf s.buf = true) (v : Word) {a : Nat} (hhi : a ≠ s.cursor)
    (hlo : a ≠ s.cursor + 1) : Memory.read (placeWord s v).buf a = Memory.read s.buf a := by
  rw [placeWord_buf, Memory.read_write (Memory.wf_write hwf s.cursor _), if_neg hlo, Memory.read_write hwf,
    if_neg hhi]

end Sys2Proof.Machine

section
open Sys2Proof Sys2Proof.Machine

/-- Settles O48: the run has ended when it has a step for each word, and then `take` takes all of `decode(buf)`. -/
theorem hostGetsTheDecodedBufferAtTheEnd : Obligations.HostGetsTheDecodedBufferAtTheEnd := by
  intro bs k t hrun
  rw [handOver_eq_ite]
  by_cases hk : bs.length / 2 ≤ k
  · have hall : (decodeSession bs).take k = decodeSession bs :=
      List.take_of_length_le ((decodeSession_length bs).trans_le hk)
    rw [if_pos ((ended_of_run_start_iff hrun).2 hk), if_pos hk, out_of_run_start hrun, hall]
  · rw [if_neg (mt (ended_of_run_start_iff hrun).1 hk), if_neg hk]

/-- Settles O50: the two bytes written at the cursor are the word that the next step fetches, and the writes keep the
canonical form and every other byte. -/
theorem placedWordIsTheNextOneRun : Obligations.PlacedWordIsTheNextOneRun := by
  intro s nbits w hwf
  exact ⟨decodeTableWord_eq_classify nbits w, step_eq_exec_of_fetchWord (fetchWord_placeWord hwf (tableWord nbits w)),
    rfl, rfl, placeWord_wf hwf (tableWord nbits w), fun _ hhi hlo => read_placeWord_of_ne hwf (tableWord nbits w) hhi hlo⟩

end

/-! ## The positional pairing, the fallback and written-out words -/

/-! ### What the default parameters select by family -/

namespace Sys2Proof.Machine

/-- A token of a single-shape variant comes from the words of the variant's family in the positional pairing, and its
operands are the word's own fields (30_encoding.md R36). -/
theorem classify_eq_iff_of_shape {v : Word} {t : Token} {f : Nibble} {P : Prop} (s : SingleShape)
    (ht : t.code = s.code) (hf : defaultParams.familyOf s = f) (hoperands : (t = s.token v) = P) :
    classify v = t ↔ family v = f ∧ P := by
  rw [classify, classifyWith_eq_iff_of_shape defaultParams_admissible s ht, hf, hoperands]

end Sys2Proof.Machine

section
open Sys2Proof Sys2Proof.Machine

/-- Settles O6: a single-shape variant has the family that the encoder writes, which is its place in the pairing. -/
theorem positionallyPairedFamiliesSelectTheirInstruction :
    Obligations.PositionallyPairedFamiliesSelectTheirInstruction := fun _ =>
  ⟨fun _ => classify_eq_iff_of_shape .callAddress rfl rfl (Instr.callAddress.injEq ..),
    fun _ _ => classify_eq_iff_of_shape .skipEqualByte rfl rfl (Instr.skipEqualByte.injEq ..),
    fun _ _ => classify_eq_iff_of_shape .skipNotEqualByte rfl rfl (Instr.skipNotEqualByte.injEq ..),
    fun _ _ => classify_eq_iff_of_shape .skipEqualRegister rfl rfl (Instr.skipEqualRegister.injEq ..),
    fun _ _ => classify_eq_iff_of_shape .addByte rfl rfl (Instr.addByte.injEq ..),
    fun _ _ => classify_eq_iff_of_shape .skipNotEqualRegister rfl rfl (Instr.skipNotEqualRegister.injEq ..),
    fun _ => classify_eq_iff_of_shape .loadIndex rfl rfl (Instr.loadIndex.injEq ..),
    fun _ => classify_eq_iff_of_shape .jumpOffset rfl rfl (Instr.jumpOffset.injEq ..),
    fun _ _ => classify_eq_iff_of_shape .randomMask rfl rfl (Instr.randomMask.injEq ..),
    fun _ _ _ => classify_eq_iff_of_shape .drawSprite rfl rfl (Instr.drawSprite.injEq ..)⟩

end

/-! ### The words that no instruction row takes -/

namespace Sys2Proof.Machine

/-- The instruction rows are numbered below the fallback, whatever the parameters select. -/
theorem code_lt_of_mem_opcodeRows {p : Params} {r : OpcodeRow} (h : r ∈ opcodeRows p) : r.code < 34 := by
  have hcode : r.code ∈ [0, 1] ++ p.shapes.map SingleShape.code ++ List.range' 14 20 :=
    List.mem_map_of_mem (f := OpcodeRow.code) h
  rw [List.mem_append, List.mem_append, List.mem_range'_1] at hcode
  obtain (h0 | hshape) | hsel := hcode
  · exact (by decide : ∀ c ∈ [0, 1], c < 34) _ h0
  · obtain ⟨s, _, hs⟩ := List.mem_map.1 hshape
    have := singleShape_code_range s
    omega
  · omega

/-- The first row is numbered as the fallback exactly when no instruction row takes the word. -/
theorem code_rowOf_eq_iff_none (p : Params) (v : Word) :
    (rowOf p v).code = 34 ↔ ∀ r ∈ opcodeRows p, r.takes v = false := by
  rw [rowOf]
  cases hfind : (opcodeRows p).find? (fun r => r.takes v) with
  | none =>
    refine iff_of_true rfl fun r hr => ?_
    simpa using List.find?_eq_none.1 hfind r hr
  | some r =>
    have hmem : r ∈ opcodeRows p := List.mem_of_find?_eq_some hfind
    have htakes : r.takes v = true := List.find?_some (p := fun x : OpcodeRow => x.takes v) hfind
    refine iff_of_false (code_lt_of_mem_opcodeRows hmem).ne fun hnone => ?_
    exact Bool.false_ne_true ((hnone r hmem).symm.trans htakes)

/-- Only the families with a secondary dispatch have opaque words (30_encoding.md R42). -/
theorem family_of_isOpaqueWord {p : Params} {v : Word} (h : IsOpaqueWord p v = true) :
    (family v).toNat ∈ [0x0, 0x8, 0xE, 0xF] := by
  by_contra hf
  rw [isOpaqueWord_singleShape p (mem_shapeFamilies_iff.2 hf)] at h
  exact Bool.false_ne_true h

/-- Opaque data carries its own word (45_opaque_data.md R88). -/
theorem raw_eq_of_classifyWith_eq_opaqueData {p : Params} {v raw : Word} (h : classifyWith p v = .opaqueData raw) :
    raw = v := by
  have hopaque : IsOpaqueWord p v = true := by rw [← isOpaque_classifyWith, h, isOpaque_opaqueData]
  exact Instr.opaqueData.inj (h.symm.trans (classifyWith_of_isOpaqueWord hopaque))

end Sys2Proof.Machine

section
open Sys2Proof Sys2Proof.Machine

/-- Settles O12: dispatch and table agree on the variant, and the fallback row is the only one of its number. -/
theorem fallbackTakesExactlyTheUnmatchedWords : Obligations.FallbackTakesExactlyTheUnmatchedWords := by
  intro p v
  refine ⟨?_, by rw [isOpaque_classifyWith], fun _ => raw_eq_of_classifyWith_eq_opaqueData, fun h => ?_⟩
  · rw [isOpaque_iff_code, (rowAgrees_rowOf p v).code, code_rowOf_eq_iff_none]
  · exact family_of_isOpaqueWord ((isOpaque_classifyWith p v).symm.trans h)

end

/-! ### Words written out -/

namespace Sys2Proof.Machine

/-- A table word that is an instruction's encoding decodes to the instruction. -/
theorem decodeTableWord_of_encode {i : Instr} {nbits w : Nat} (hwf : WellFormed defaultParams i = true)
    (hw : tableWord nbits w = encode i) : decodeTableWord nbits w = some i := by
  rw [decodeTableWord_eq_classify, hw, classify_encode hwf]

end Sys2Proof.Machine

section
open Sys2Proof Sys2Proof.Machine

/-- Settles O19: each of the seven words is the encoding of its instruction. -/
theorem writtenOutWordsDecode : Obligations.WrittenOutWordsDecode :=
  ⟨decodeTableWord_of_encode rfl rfl, decodeTableWord_of_encode rfl rfl, decodeTableWord_of_encode rfl rfl,
    decodeTableWord_of_encode rfl rfl, decodeTableWord_of_encode rfl rfl, decodeTableWord_of_encode rfl rfl,
    decodeTableWord_of_encode rfl rfl⟩

end
